-- ==== Sys2Proof/Word.lean ====
section
/-! DEFINITION. The widths of the hardware (00_scope.md R4, R5, R9). Every value is an unsigned bit vector. -/

namespace Sys2Proof

/-- An operand, a password, plaintext or ciphertext byte, an opcode: 8 bits. -/
abbrev Byte := BitVec 8

/-- A key register or a table entry: `W = 32` bits (00_scope.md R4). -/
abbrev Word := BitVec 32

/-- A command word `cmd[15:0]`: `CMD_W = 16` bits (00_scope.md R5, 30_encoding.md R60). -/
abbrev CmdWord := BitVec 16

/-- A response word `rsp[39:0]`: `RSP_W = 40` bits (00_scope.md R5, 30_encoding.md R61). -/
abbrev RspWord := BitVec 40

end Sys2Proof
end

