-- ==== Sys2Proof/Syntax.lean ====
section
/-! DEFINITION. The eleven commands (30_encoding.md R63), one constructor per row of spec/opcode_table.json. An operand
is the 8-bit field `opd`, so every term is well formed as it stands. -/

namespace Sys2Proof

/-- A command of the block (30_encoding.md R63). -/
inductive Instr where
  /-- `STAT` (43_status_access.md R130). -/
  | stat
  /-- `TBUILD` (41_crc_table.md R84). -/
  | tbuild
  /-- `TREAD idx` (41_crc_table.md R85). -/
  | tread (idx : Byte)
  /-- `KINIT` (42_cipher_engine.md R102). -/
  | kinit
  /-- `KUPD byte` (42_cipher_engine.md R103). -/
  | kupd (byte : Byte)
  /-- `KSTRM` (42_cipher_engine.md R104). -/
  | kstrm
  /-- `KREAD0` (43_status_access.md R131). -/
  | kread0
  /-- `KREAD1` (43_status_access.md R132). -/
  | kread1
  /-- `KREAD2` (43_status_access.md R133). -/
  | kread2
  /-- `DEC c` (42_cipher_engine.md R105). -/
  | dec (c : Byte)
  /-- `ENC p` (42_cipher_engine.md R106). -/
  | enc (p : Byte)
deriving DecidableEq, Repr

end Sys2Proof
end

