-- ==== Sys2Proof/WellFormed.lean ====
section
/-! DEFINITION. Which command words are well formed: the opcode map of 30_encoding.md R63 as rows of a match and a mask,
and legality read off it (R65). A term of `Instr` needs no check of its own: its operand is 8 bits by type. -/

namespace Sys2Proof

/-- One row of the opcode map: the word selects the command when `(cmd & mask) == pattern` (30_encoding.md R63). -/
structure OpcodeRow where
  mnemonic : String
  mask : CmdWord
  pattern : CmdWord
deriving DecidableEq, Repr

/-- The opcode map (30_encoding.md R63). -/
def opcodeMap : List OpcodeRow :=
  [⟨"STAT", 0xFFFF, 0x0100⟩, ⟨"TBUILD", 0xFFFF, 0x1000⟩, ⟨"TREAD", 0xFF00, 0x1100⟩, ⟨"KINIT", 0xFFFF, 0x2000⟩,
   ⟨"KUPD", 0xFF00, 0x2100⟩, ⟨"KSTRM", 0xFFFF, 0x2200⟩, ⟨"KREAD0", 0xFFFF, 0x2300⟩, ⟨"KREAD1", 0xFFFF, 0x2400⟩,
   ⟨"KREAD2", 0xFFFF, 0x2500⟩, ⟨"DEC", 0xFF00, 0x3000⟩, ⟨"ENC", 0xFF00, 0x3100⟩]

/-- The row's condition on a word (30_encoding.md R63). -/
def OpcodeRow.selects (r : OpcodeRow) (w : CmdWord) : Bool := (w &&& r.mask) == r.pattern

/-- A word is legal when some row selects it (30_encoding.md R65). -/
def legalWord (w : CmdWord) : Bool := opcodeMap.any (·.selects w)

/-- The mnemonic of a command, as spec/opcode_table.json spells it. -/
def Instr.mnemonic : Instr → String
  | .stat => "STAT"
  | .tbuild => "TBUILD"
  | .tread _ => "TREAD"
  | .kinit => "KINIT"
  | .kupd _ => "KUPD"
  | .kstrm => "KSTRM"
  | .kread0 => "KREAD0"
  | .kread1 => "KREAD1"
  | .kread2 => "KREAD2"
  | .dec _ => "DEC"
  | .enc _ => "ENC"

end Sys2Proof
end

