-- ==== Sys2Proof/Decode.lean ====
section
/-! DEFINITION. Decoding a command word and encoding a command, each written from 30_encoding.md R60, R62 to R66. -/

namespace Sys2Proof

/-- The two ways a word is illegal (60_exceptions.md R141). -/
inductive DecodeError where
  /-- The opcode is none of the eleven (30_encoding.md R65). -/
  | unassignedOpcode
  /-- A no-operand command with a non-zero operand field (30_encoding.md R64). -/
  | operandNotZero
deriving DecidableEq, Repr

/-- `opc = cmd[15:8]` (30_encoding.md R60). -/
def opcOf (w : CmdWord) : Byte := w.extractLsb' 8 8

/-- `opd = cmd[7:0]` (30_encoding.md R60). -/
def opdOf (w : CmdWord) : Byte := w.extractLsb' 0 8

/-- A command without an operand requires `opd == 0x00` (30_encoding.md R64). -/
def noOperand (i : Instr) (opd : Byte) : Except DecodeError Instr :=
  if opd = 0x00 then .ok i else .error .operandNotZero

/-- The command an opcode names, given the operand field (30_encoding.md R63, R64, R65). -/
def decodeFields (opc opd : Byte) : Except DecodeError Instr :=
  if opc = 0x01 then noOperand .stat opd
  else if opc = 0x10 then noOperand .tbuild opd
  else if opc = 0x11 then .ok (.tread opd)
  else if opc = 0x20 then noOperand .kinit opd
  else if opc = 0x21 then .ok (.kupd opd)
  else if opc = 0x22 then noOperand .kstrm opd
  else if opc = 0x23 then noOperand .kread0 opd
  else if opc = 0x24 then noOperand .kread1 opd
  else if opc = 0x25 then noOperand .kread2 opd
  else if opc = 0x30 then .ok (.dec opd)
  else if opc = 0x31 then .ok (.enc opd)
  else .error .unassignedOpcode

/-- The decoder, total on all 65536 words (30_encoding.md R66). -/
def decode (w : CmdWord) : Except DecodeError Instr := decodeFields (opcOf w) (opdOf w)

/-- The word `opc ‖ opd` (30_encoding.md R60). -/
def joinFields (opc opd : Byte) : CmdWord := opc ++ opd

/-- The word `opc ‖ opd` of a command, `opd = 0x00` where it takes no operand (30_encoding.md R63, R68). -/
def encode : Instr → CmdWord
  | .stat => joinFields 0x01 0x00
  | .tbuild => joinFields 0x10 0x00
  | .tread idx => joinFields 0x11 idx
  | .kinit => joinFields 0x20 0x00
  | .kupd byte => joinFields 0x21 byte
  | .kstrm => joinFields 0x22 0x00
  | .kread0 => joinFields 0x23 0x00
  | .kread1 => joinFields 0x24 0x00
  | .kread2 => joinFields 0x25 0x00
  | .dec c => joinFields 0x30 c
  | .enc p => joinFields 0x31 p

/-- The command word whose bits the opcode table numbers as `w`: `nbits` bits of it, those above zero. A command is
exactly one word (30_encoding.md R67), so the table's bit numbers are the word's own. -/
def tableWord (nbits w : Nat) : CmdWord := BitVec.ofNat 16 (w % 2 ^ nbits)

/-- What the decoder reads from an instruction given by the bits of spec/opcode_table.json. Every command is 16 bits
(30_encoding.md R67), so a longer one is none. -/
def decodeTableWord (nbits w : Nat) : Option Instr :=
  if 16 < nbits then none
  else
    match decode (tableWord nbits w) with
    | .ok i => some i
    | .error _ => none

end Sys2Proof
end

