-- ==== Sys2Proof/Config.lean ====
section
/-! DEFINITION. What an implementation fixes: the constants of 00_scope.md R4, the one open parameter of R6, and the
free values behind the key bits that reset leaves unspecified (10_state.md R32, 93_implementation_defined.md U14). -/

namespace Sys2Proof

/-- `POLY`, the reflected CRC-32 polynomial (00_scope.md R4). -/
def Config.poly : Word := 0xEDB88320

/-- `ROUNDS`, the shift-and-conditional-XOR rounds per table entry (00_scope.md R4). -/
def Config.rounds : Nat := 8

/-- `TABLE_ENTRIES` (00_scope.md R4). -/
def Config.tableEntries : Nat := 256

/-- `KEY0_INIT` (00_scope.md R4). -/
def Config.key0Init : Word := 0x12345678

/-- `KEY1_INIT` (00_scope.md R4). -/
def Config.key1Init : Word := 0x23456789

/-- `KEY2_INIT` (00_scope.md R4). -/
def Config.key2Init : Word := 0x34567890

/-- `MULT`, the multiplier of step 3 of the key update; the spec gives it in decimal (00_scope.md R4). -/
def Config.mult : Word := 134775813

/-- `INC`, the increment of step 3 of the key update (00_scope.md R4). -/
def Config.inc : Word := 1

/-- `KS_OR`, the constant ORed into the low half of `key2` by the keystream function (00_scope.md R4). -/
def Config.ksOr : BitVec 16 := 0x0002

/-- The parameters an implementation chooses. There is one (00_scope.md R6). -/
structure Params where
  /-- `TABLE_PREBUILT`: the table is a read-only memory that holds its constant contents from reset on. -/
  tablePrebuilt : Bool
deriving DecidableEq, Repr

/-- The default of R6: `TABLE_PREBUILT == false`. -/
def Params.default : Params := ⟨false⟩

/-- FREE VALUE (notes/assumptions/3.md): the bits a key register physically holds after a RESET. The spec gives them no
value and says a model must not pick one (10_state.md R32; U14: `any value`). Nothing in Lean can evaluate it. -/
opaque Config.hiddenBits : Nat → Word

end Sys2Proof
end

