-- ==== Sys2Proof/Machine/State.lean ====
section
/-! DEFINITION. The state of one block (10_state.md), the host's side of the command interface (00_scope.md R7,
30_encoding.md R61, R71), the reasons a step can stop, and the state after reset (10_state.md R32). -/

namespace Sys2Proof.Machine

/-- The contents of `TABLE` (10_state.md R31, 20_memory.md R40): the word indices that hold a value, rising, each with
its 32-bit word. An index not listed holds no value (10_state.md R24, R32; notes/assumptions/5.md, 6.md). -/
abbrev Memory := List (Nat × Word)

/-- The status of a response; these four values and no other (60_exceptions.md R140, U10). -/
inductive Status where
  /-- The command was carried out. -/
  | ok
  /-- The word is not one of the eleven commands (R141). -/
  | illegal
  /-- The command reads a key register and `KVALID == 0` (R142). -/
  | noKey
  /-- The command reads the table and `TVALID == 0` (R143). -/
  | noTable
deriving DecidableEq, Repr

/-- One response: its status and its 32 bits of data (30_encoding.md R61). -/
structure Response where
  sts : Status
  dat : Word
deriving DecidableEq, Repr

/-- What the host can do to the block (00_scope.md R7; 70_reset_and_hazards.md R160, R161). -/
inductive HostAction where
  /-- `RESET`, between commands (R160). -/
  | reset
  /-- The host presents a command word (30_encoding.md R71). -/
  | command (cmd : CmdWord)
  /-- The host presents a command word and asserts reset while it is in progress (R161; notes/assumptions/7.md). -/
  | resetDuring (cmd : CmdWord)
deriving DecidableEq, Repr

/-- A register number `i` of the primitive `key[i]` (00_scope.md R11). -/
abbrev KeyIndex := Fin 3

/-- Why the machine stops. -/
inductive Fault where
  /-- A table read (`TREAD`, or `crc32_step` inside `KUPD`, `DEC`, `ENC`) met an entry that holds no value. Raised by
  the meanings of those four. SAFE: no state a run can reach gives it (10_state.md R30; notes/assumptions/5.md). -/
  | tableHoldsNoValue
deriving DecidableEq, Repr

/-- Why an instruction has no meaning. -/
inductive Refusal where
  /-- An arm of `exec` whose instruction is not modelled. Raised by no arm: every command has its meaning. SAFE. -/
  | notModelled (mnemonic : String)
deriving DecidableEq, Repr

/-- One block and its host interface. -/
structure State where
  /-- The parameter `TABLE_PREBUILT` (00_scope.md R6); no step writes it (notes/assumptions/2.md). -/
  params : Params
  /-- `key0` (10_state.md R20). -/
  key0 : Word
  /-- `key1` (10_state.md R20). -/
  key1 : Word
  /-- `key2` (10_state.md R20). -/
  key2 : Word
  /-- `TABLE` (10_state.md R31). -/
  table : Memory
  /-- `TVALID` (10_state.md R24). -/
  tvalid : Bool
  /-- `KVALID` (10_state.md R25). -/
  kvalid : Bool
  /-- What the host has still to do, first action first (00_scope.md R7; notes/assumptions/1.md). -/
  pending : List HostAction
  /-- The responses the run has shown the host, oldest first (00_scope.md R7; notes/assumptions/1.md). -/
  responses : List Response
  /-- The model's own: how many free values have been used for unspecified key bits (notes/assumptions/3.md). -/
  hiddenCount : Nat
deriving DecidableEq, Repr

/-- The outcome of one step. -/
abbrev Result := Host.Outcome State Fault Refusal

/-- The machine right after reset (10_state.md R32), with `TABLE_PREBUILT` at its default. The key registers are
unspecified there; zero is DESIGN CHOICE (notes/assumptions/4.md). -/
def State.reset : State where
  params := Params.default
  key0 := 0
  key1 := 0
  key2 := 0
  table := []
  tvalid := false
  kvalid := false
  pending := []
  responses := []
  hiddenCount := 0

end Sys2Proof.Machine
end

