-- ==== Sys2Proof/Machine/Flags.lean ====
section
/-! DEFINITION. The two flags and the views of them: `STATUS` (10_state.md R28) and the response's status code
(60_exceptions.md R140). There are no arithmetic flags (10_state.md R26). -/

namespace Sys2Proof.Machine

/-- `STATUS`: `TVALID` in bit 0, `KVALID` in bit 1, zero above (10_state.md R28, 43_status_access.md R130). -/
def status (s : State) : Word := (BitVec.ofBool s.kvalid ++ BitVec.ofBool s.tvalid).setWidth 32

/-- The 8-bit code of a status (60_exceptions.md R140). -/
def Status.code : Status → Byte
  | .ok => 0x00
  | .illegal => 0x01
  | .noKey => 0x02
  | .noTable => 0x03

/-- The response word `rsp[39:0]`: the status in bits 39:32, the data in bits 31:0 (30_encoding.md R61). -/
def Response.word (r : Response) : RspWord := r.sts.code ++ r.dat

end Sys2Proof.Machine
end

