-- ==== Sys2Proof/Machine/Operands.lean ====
section
/-! DEFINITION. The operand form and the bit fields the rules take out of a word (30_encoding.md R62, 20_memory.md R44,
00_scope.md R10). -/

namespace Sys2Proof.Machine

/-- `zext_32(b)`: an operand byte widened with zeros (30_encoding.md R62). -/
def zext32 (b : Byte) : Word := b.setWidth 32

/-- `v[7:0]` of a 32-bit value (20_memory.md R44). -/
def lowByte (v : Word) : Byte := v.extractLsb' 0 8

/-- `v[31:24]` of a 32-bit value (20_memory.md R44). -/
def highByte (v : Word) : Byte := v.extractLsb' 24 8

/-- `v[15:0]` of a 32-bit value (42_cipher_engine.md R101). -/
def lowHalf (v : Word) : BitVec 16 := v.extractLsb' 0 16

end Sys2Proof.Machine
end

