-- ==== Sys2Proof/Machine/Ops.lean ====
section
/-! DEFINITION. The named operations of the rules: the primitives of 00_scope.md R11, the error response (this hardware's
whole exception mechanism, 60_exceptions.md R144), the table functions (41_crc_table.md), the key functions
(42_cipher_engine.md) and reset (70_reset_and_hazards.md R160). -/

namespace Sys2Proof.Machine

/-! ### Responses and errors -/

/-- `respond(s, d)`: end the command with one response (00_scope.md R11, 30_encoding.md R71). -/
def respond (sts : Status) (dat : Word) (s : State) : State :=
  { s with responses := s.responses ++ [⟨sts, dat⟩] }

/-- `raise E_X`: the error response, `dat = 0`, and no other write (60_exceptions.md R144). Nothing is saved and there is
nothing to return from (R147). -/
def raise (e : Status) (s : State) : State := respond e 0x00000000 s

/-! ### The key registers -/

/-- `key[i]` (00_scope.md R11). -/
def readKey (i : KeyIndex) (s : State) : Word :=
  match i with
  | 0 => s.key0
  | 1 => s.key1
  | 2 => s.key2

/-- `key[i] <- v` (00_scope.md R11). -/
def writeKey (i : KeyIndex) (v : Word) (s : State) : State :=
  match i with
  | 0 => { s with key0 := v }
  | 1 => { s with key1 := v }
  | 2 => { s with key2 := v }

/-! ### The table memory -/

/-- The canonical form: indices strictly rising, each one of the 256 (20_memory.md R40). -/
abbrev Memory.wf (m : Memory) : Prop :=
  (m.map Prod.fst).Pairwise (· < ·) ∧ ∀ c ∈ m, c.1 < Config.tableEntries

/-- The word listed at a key, none where the key is not listed. -/
def Memory.lookup : Memory → Nat → Option Word
  | [], _ => none
  | (j, v) :: rest, i => if i = j then some v else Memory.lookup rest i

/-- The memory with `v` at a key, in canonical form. -/
def Memory.insert : Memory → Nat → Word → Memory
  | [], i, v => [(i, v)]
  | (j, u) :: rest, i, v =>
    if i < j then (i, v) :: (j, u) :: rest
    else if i = j then (i, v) :: rest
    else (j, u) :: Memory.insert rest i v

/-- `MemRead(i, 4)`: the word `TABLE[i]`, none where the entry holds no value (00_scope.md R11, 20_memory.md R40). -/
def memRead (m : Memory) (i : Byte) : Option Word := m.lookup i.toNat

/-- `MemWrite(i, 4, v)`: `TABLE[i] <- v` (00_scope.md R11). -/
def memWrite (m : Memory) (i : Byte) (v : Word) : Memory := m.insert i.toNat v

/-! ### The CRC table -/

/-- `crc_round`: one shift-and-conditional-XOR round, the shift filling with zero (41_crc_table.md R80; 90_conflicts.md
C1). -/
def crcRound (crc : Word) : Word :=
  let s := crc >>> 1
  if crc.getLsbD 0 then s ^^^ Config.poly else s

/-- `n` rounds in turn. -/
def crcRounds : Nat → Word → Word
  | 0, c => c
  | n + 1, c => crcRounds n (crcRound c)

/-- `crc_entry(i)`, and so the constant `T[i]`: eight rounds from `zext_32(i)` (41_crc_table.md R81, R82). -/
def crcEntry (i : Byte) : Word := crcRounds Config.rounds (zext32 i)

/-- The indices `0, 1, ..., 255` in turn (41_crc_table.md R84). -/
def tableIndices : List Byte := (List.range Config.tableEntries).map (BitVec.ofNat 8)

/-- The builder's writes (41_crc_table.md R84). Irreducible, so that no unification runs the 256 of them. -/
@[irreducible] def fillTable (m : Memory) : Memory := tableIndices.foldl (fun t i => memWrite t i (crcEntry i)) m

/-- `build_table()`, run by `TBUILD` and `KINIT` (41_crc_table.md R84). -/
def buildTable (s : State) : State := { s with table := fillTable s.table, tvalid := true }

/-- `crc32_step(byte, crc)` (41_crc_table.md R83). None where the entry it reads holds no value. -/
def crc32Step (m : Memory) (byte : Byte) (crc : Word) : Option Word :=
  let idx := lowByte (crc ^^^ zext32 byte)
  match memRead m idx with
  | some entry => some (((crc >>> 8) &&& 0x00FFFFFF) ^^^ entry)
  | none => none

/-! ### The cipher engine -/

/-- The value of step 3 of the key update, `(key1 * 134775813 + 1) mod 2^32` (42_cipher_engine.md R100). The
constant stands first so that no reduction counts up to it. -/
def mulAdd (v : Word) : Word := Config.mult * v + Config.inc

/-- `update_keys(byte)`: four steps, each seeing the writes before it (42_cipher_engine.md R100). None where a table
entry it reads holds no value. -/
def updateKeys (byte : Byte) (s : State) : Option State :=
  match crc32Step s.table byte (readKey 0 s) with
  | none => none
  | some k0 =>
    let s1 := writeKey 0 k0 s
    let s2 := writeKey 1 (readKey 1 s1 + zext32 (lowByte (readKey 0 s1))) s1
    let s3 := writeKey 1 (mulAdd (readKey 1 s2)) s2
    match crc32Step s3.table (highByte (readKey 1 s3)) (readKey 2 s3) with
    | none => none
    | some k2 => some (writeKey 2 k2 s3)

/-- `keystream()`: bits 15:8 of the full product of `k` and `k ^ 1` (42_cipher_engine.md R101). -/
def keystream (s : State) : Byte :=
  let k : BitVec 16 := lowHalf (readKey 2 s) ||| Config.ksOr
  let m : Word := k.setWidth 32 * (k ^^^ 0x0001).setWidth 32
  m.extractLsb' 8 8

/-- The three constants of `KINIT` (42_cipher_engine.md R102). -/
def loadInitialKeys (s : State) : State :=
  { s with key0 := Config.key0Init, key1 := Config.key1Init, key2 := Config.key2Init, kvalid := true }

/-- The check `if KVALID == 0 then raise E_NOKEY` that comes first in seven commands (60_exceptions.md R142). -/
def requireKeys (s : State) (go : Result) : Result := if s.kvalid then go else .next (raise .noKey s)

/-- `update_keys(byte)` and then the response (42_cipher_engine.md R103, R105, R106). -/
def updateAndRespond (byte : Byte) (dat : Word) (s : State) : Result :=
  match updateKeys byte s with
  | some t => .next (respond .ok dat t)
  | none => .fault .tableHoldsNoValue

/-- The direction of a transform (42_cipher_engine.md R108). -/
inductive Direction where
  | decrypt
  | encrypt
deriving DecidableEq, Repr

/-- The byte that drives the key update, the plaintext in both directions (42_cipher_engine.md R105, R106). -/
def drivingByte (d : Direction) (input output : Byte) : Byte :=
  match d with
  | .decrypt => output
  | .encrypt => input

/-- The core both transforms share: "one keystream/update core parameterized by which byte (input vs recovered) drives
the key update" (42_cipher_engine.md R106). The keystream byte is that of the state before the update. -/
def transformByte (d : Direction) (input : Byte) (s : State) : Result :=
  let output := input ^^^ keystream s
  requireKeys s (updateAndRespond (drivingByte d input output) (zext32 output) s)

/-- The answer to a word that is no command (60_exceptions.md R141). -/
def refuseIllegal (s : State) : State := raise .illegal s

/-! ### The host's actions -/

/-- The first pending action and the state without it; none while the block waits (30_encoding.md R71). -/
def takeAction (s : State) : Option (HostAction × State) :=
  match s.pending with
  | [] => none
  | a :: rest => some (a, { s with pending := rest })

/-- `RESET` (70_reset_and_hazards.md R160, 10_state.md R32). The key bits are free values (notes/assumptions/3.md); the
table holds `T` when prebuilt and no value otherwise. -/
def resetBlock (s : State) : State :=
  { s with
    key0 := Config.hiddenBits s.hiddenCount
    key1 := Config.hiddenBits (s.hiddenCount + 1)
    key2 := Config.hiddenBits (s.hiddenCount + 2)
    hiddenCount := s.hiddenCount + 3
    kvalid := false
    tvalid := s.params.tablePrebuilt
    table := if s.params.tablePrebuilt then fillTable [] else [] }

end Sys2Proof.Machine
end

