-- ==== Sys2Proof/Machine/CipherEngine.lean ====
section
/-! DEFINITION. The commands of the cipher engine (42_cipher_engine.md section 2). -/

namespace Sys2Proof.Machine

/-- `KINIT`: build the table if it is unbuilt, then the three constants (42_cipher_engine.md R102). -/
def execKinit (s : State) : Result :=
  let t := if s.tvalid then s else buildTable s
  .next (respond .ok 0x00000000 (loadInitialKeys t))

/-- `KUPD byte` (42_cipher_engine.md R103). -/
def execKupd (byte : Byte) (s : State) : Result := requireKeys s (updateAndRespond byte 0x00000000 s)

/-- `KSTRM` (42_cipher_engine.md R104). -/
def execKstrm (s : State) : Result := requireKeys s (.next (respond .ok (zext32 (keystream s)) s))

/-- `DEC c` (42_cipher_engine.md R105). -/
def execDec (c : Byte) (s : State) : Result := transformByte .decrypt c s

/-- `ENC p` (42_cipher_engine.md R106). -/
def execEnc (p : Byte) (s : State) : Result := transformByte .encrypt p s

end Sys2Proof.Machine
end

