-- ==== Sys2Proof/Machine/CrcTable.lean ====
section
/-! DEFINITION. The commands of the CRC table (41_crc_table.md section 2). -/

namespace Sys2Proof.Machine

/-- `TBUILD` (41_crc_table.md R84). -/
def execTbuild (s : State) : Result := .next (respond .ok 0x00000000 (buildTable s))

/-- `TREAD idx` (41_crc_table.md R85, 60_exceptions.md R143). -/
def execTread (idx : Byte) (s : State) : Result :=
  if s.tvalid then
    match memRead s.table idx with
    | some v => .next (respond .ok v s)
    | none => .fault .tableHoldsNoValue
  else .next (raise .noTable s)

end Sys2Proof.Machine
end

