-- ==== Sys2Proof/Machine/StatusAccess.lean ====
section
/-! DEFINITION. The status and register-read commands (43_status_access.md). -/

namespace Sys2Proof.Machine

/-- `STAT` (43_status_access.md R130). -/
def execStat (s : State) : Result := .next (respond .ok (status s) s)

/-- `KREAD0` (43_status_access.md R131). -/
def execKread0 (s : State) : Result := requireKeys s (.next (respond .ok (readKey 0 s) s))

/-- `KREAD1` (43_status_access.md R132). -/
def execKread1 (s : State) : Result := requireKeys s (.next (respond .ok (readKey 1 s) s))

/-- `KREAD2` (43_status_access.md R133). -/
def execKread2 (s : State) : Result := requireKeys s (.next (respond .ok (readKey 2 s) s))

end Sys2Proof.Machine
end

