-- ==== Sys2Proof/Machine/Dispatch.lean ====
section
/-! DEFINITION. One arm per command of 30_encoding.md R63. -/

namespace Sys2Proof.Machine

def exec (i : Instr) (s : State) : Host.Outcome State Fault Refusal :=
  match i with
  | .stat => Sys2Proof.Machine.execStat s
  | .tbuild => Sys2Proof.Machine.execTbuild s
  | .tread idx => Sys2Proof.Machine.execTread idx s
  | .kinit => Sys2Proof.Machine.execKinit s
  | .kupd byte => Sys2Proof.Machine.execKupd byte s
  | .kstrm => Sys2Proof.Machine.execKstrm s
  | .kread0 => Sys2Proof.Machine.execKread0 s
  | .kread1 => Sys2Proof.Machine.execKread1 s
  | .kread2 => Sys2Proof.Machine.execKread2 s
  | .dec c => Sys2Proof.Machine.execDec c s
  | .enc p => Sys2Proof.Machine.execEnc p s

end Sys2Proof.Machine
end

