-- ==== Sys2Proof/Machine/Step.lean ====
section
/-! DEFINITION. One step: the host's first pending action (00_scope.md R7, R12; 30_encoding.md R71). -/

namespace Sys2Proof.Machine

/-- One step of the block. A command is decoded first, and an illegal word answered without a look at the state
(60_exceptions.md R145); a reset wins over the command it cuts off (R145, 70_reset_and_hazards.md R161); with no action
pending the block waits (notes/assumptions/1.md). -/
def step (s : State) : Host.Outcome State Fault Refusal :=
  match takeAction s with
  | none => .next s
  | some (.reset, t) => .next (resetBlock t)
  | some (.resetDuring _, t) => .next (resetBlock t)
  | some (.command w, t) =>
    match decode w with
    | .ok i => exec i t
    | .error _ => .next (refuseIllegal t)

/-- The state with the given command word presented next by the host (notes/assumptions/1.md). -/
def State.withFetchWord (s : State) (nbits w : Nat) : State :=
  { s with pending := .command (tableWord nbits w) :: s.pending }

end Sys2Proof.Machine
end

