-- ==== Sys2Proof/Machine/Assembler.lean ====
section
/-! DEFINITION. The assembler of 30_encoding.md R68 and the pseudo-instructions of R69 (the document's caller operations,
42_cipher_engine.md R107, R108). Neither is part of a step: they say which host actions a text stands for. What R68 leaves
open is fixed in notes/assumptions/8.md. -/

namespace Sys2Proof.Machine

/-! ### The document's caller operations -/

/-- A pseudo-instruction with its byte sequence (30_encoding.md R69). -/
inductive CallerOp where
  /-- `NEW s`, the document's `new` and `init`. -/
  | newCipher (password : List Byte)
  /-- `DECRYPT s`. -/
  | decryptBuffer (ciphertext : List Byte)
  /-- `ENCRYPT s`. -/
  | encryptBuffer (plaintext : List Byte)
deriving DecidableEq, Repr

/-- The commands a pseudo-instruction stands for (30_encoding.md R69). -/
def expand : CallerOp → List Instr
  | .newCipher p => .kinit :: p.map Instr.kupd
  | .decryptBuffer s => s.map Instr.dec
  | .encryptBuffer s => s.map Instr.enc

/-- The host presenting a command. -/
def present (i : Instr) : HostAction := .command (encode i)

/-- The host actions of a pseudo-instruction. -/
def expandActions (op : CallerOp) : List HostAction := (expand op).map present

/-! ### Lines of text -/

/-- Why a line is refused. -/
inductive AsmError where
  /-- The line's first word is no mnemonic. -/
  | unknownMnemonic
  /-- The operand is missing or is none of R68's three forms. -/
  | badOperand
  /-- Something stands on the line that R68 does not allow there. -/
  | trailingText
deriving DecidableEq, Repr

/-- The value of a hexadecimal digit. -/
def hexDigit (c : Char) : Option Nat :=
  let n := c.toNat
  if 48 ≤ n ∧ n ≤ 57 then some (n - 48)
  else if 65 ≤ n ∧ n ≤ 70 then some (n - 55)
  else if 97 ≤ n ∧ n ≤ 102 then some (n - 87)
  else none

/-- The value of a decimal digit. -/
def decDigit (c : Char) : Option Nat :=
  let n := c.toNat
  if 48 ≤ n ∧ n ≤ 57 then some (n - 48) else none

/-- A printable ASCII character. -/
def printable (c : Char) : Bool := 32 ≤ c.toNat && c.toNat ≤ 126

/-- The number a run of decimal digits writes, after a value read so far, and the rest of the line. -/
def decimalFrom (acc : Nat) : List Char → Nat × List Char
  | [] => (acc, [])
  | c :: cs =>
    match decDigit c with
    | some d => decimalFrom (acc * 10 + d) cs
    | none => (acc, c :: cs)

/-- A decimal number 0 to 255 and the rest of the line. -/
def readDecimal (cs : List Char) : Option (Byte × List Char) :=
  match cs with
  | [] => none
  | c :: rest =>
    match decDigit c with
    | none => none
    | some d =>
      let (n, tail) := decimalFrom d rest
      if n ≤ 255 then some (BitVec.ofNat 8 n, tail) else none

/-- An operand, in one of the three forms of R68, and the rest of the line. -/
def readOperand (cs : List Char) : Option (Byte × List Char) :=
  match cs with
  | '0' :: 'x' :: a :: b :: rest =>
    match hexDigit a, hexDigit b with
    | some h, some l => some (BitVec.ofNat 8 (16 * h + l), rest)
    | _, _ => none
  | '\'' :: c :: '\'' :: rest => if printable c then some (BitVec.ofNat 8 c.toNat, rest) else none
  | _ => readDecimal cs

/-- The four hexadecimal digits of `.word 0xHHHH`, and the rest of the line. -/
def readRawWord (cs : List Char) : Option (CmdWord × List Char) :=
  match cs with
  | '0' :: 'x' :: a :: b :: c :: d :: rest =>
    match hexDigit a, hexDigit b, hexDigit c, hexDigit d with
    | some h3, some h2, some h1, some h0 => some (BitVec.ofNat 16 (4096 * h3 + 256 * h2 + 16 * h1 + h0), rest)
    | _, _, _, _ => none
  | _ => none

/-- The characters of a double-quoted string after its opening quote, and the rest of the line (30_encoding.md R69). -/
def readString : List Char → Option (List Byte × List Char)
  | [] => none
  | c :: cs =>
    if c = '"' then some ([], cs)
    else if printable c then
      match readString cs with
      | some (bs, rest) => some (BitVec.ofNat 8 c.toNat :: bs, rest)
      | none => none
    else none

/-- Nothing is left on the line but spaces and a comment. -/
def lineEnds : List Char → Bool
  | [] => true
  | c :: cs => if c = ';' then true else c = ' ' && lineEnds cs

/-- A line that ends here and stands for the given actions. -/
def finish (acts : List HostAction) (rest : List Char) : Except AsmError (List HostAction) :=
  if lineEnds rest then .ok acts else .error .trailingText

/-- A line with one space and then an operand. -/
def withOperand (command : Byte → Instr) (rest : List Char) : Except AsmError (List HostAction) :=
  match rest with
  | ' ' :: cs =>
    match readOperand cs with
    | some (b, tail) => finish [present (command b)] tail
    | none => .error .badOperand
  | _ => .error .badOperand

/-- A line with one space and then a byte sequence in double quotes. -/
def withString (op : List Byte → CallerOp) (rest : List Char) : Except AsmError (List HostAction) :=
  match rest with
  | ' ' :: '"' :: cs =>
    match readString cs with
    | some (bs, tail) => finish (expandActions (op bs)) tail
    | none => .error .badOperand
  | _ => .error .badOperand

/-- A line `.word 0xHHHH`. -/
def withRawWord (rest : List Char) : Except AsmError (List HostAction) :=
  match rest with
  | ' ' :: cs =>
    match readRawWord cs with
    | some (w, tail) => finish [.command w] tail
    | none => .error .badOperand
  | _ => .error .badOperand

/-- The line's first word: what stands before the first space or semicolon. -/
def firstWord (cs : List Char) : List Char := cs.takeWhile fun c => c ≠ ' ' && c ≠ ';'

/-- The host actions of one line, none for an empty or comment line (30_encoding.md R68, R69). -/
def assembleLine (line : List Char) : Except AsmError (List HostAction) :=
  let name := firstWord line
  let rest := line.drop name.length
  if name = "STAT".toList then finish [present .stat] rest
  else if name = "TBUILD".toList then finish [present .tbuild] rest
  else if name = "TREAD".toList then withOperand .tread rest
  else if name = "KINIT".toList then finish [present .kinit] rest
  else if name = "KUPD".toList then withOperand .kupd rest
  else if name = "KSTRM".toList then finish [present .kstrm] rest
  else if name = "KREAD0".toList then finish [present .kread0] rest
  else if name = "KREAD1".toList then finish [present .kread1] rest
  else if name = "KREAD2".toList then finish [present .kread2] rest
  else if name = "DEC".toList then withOperand .dec rest
  else if name = "ENC".toList then withOperand .enc rest
  else if name = "RESET".toList then finish [.reset] rest
  else if name = ".word".toList then withRawWord rest
  else if name = "NEW".toList then withString .newCipher rest
  else if name = "DECRYPT".toList then withString .decryptBuffer rest
  else if name = "ENCRYPT".toList then withString .encryptBuffer rest
  else if name = [] then finish [] rest
  else .error .unknownMnemonic

/-- The host actions of a text, line by line; the first line refused refuses the text. -/
def assemble : List (List Char) → Except AsmError (List HostAction)
  | [] => .ok []
  | line :: lines =>
    match assembleLine line, assemble lines with
    | .ok acts, .ok more => .ok (acts ++ more)
    | .error e, _ => .error e
    | .ok _, .error e => .error e

/-! ### Writing a command as a line -/

/-- A hexadecimal digit, capitals. -/
def hexChar (n : Nat) : Char := if n < 10 then Char.ofNat (48 + n) else Char.ofNat (55 + n)

/-- A byte as `0x` and two hexadecimal digits. -/
def hexText (b : Byte) : List Char := ['0', 'x', hexChar (b.toNat / 16), hexChar (b.toNat % 16)]

/-- The operand of a command, where it has one. -/
def operandOf : Instr → Option Byte
  | .tread idx => some idx
  | .kupd byte => some byte
  | .dec c => some c
  | .enc p => some p
  | .stat => none
  | .tbuild => none
  | .kinit => none
  | .kstrm => none
  | .kread0 => none
  | .kread1 => none
  | .kread2 => none

/-- A command as a line of R68's form, its operand in hexadecimal. -/
def lineOf (i : Instr) : List Char :=
  match operandOf i with
  | some b => i.mnemonic.toList ++ ' ' :: hexText b
  | none => i.mnemonic.toList

end Sys2Proof.Machine
end

