-- ==== Sys2Proof/Machine/Blocks.lean ====
section
/-! DEFINITION. Several blocks: independent copies of the model of one, sharing no state (60_exceptions.md R151,
10_state.md R33; notes/assumptions/10.md). -/

namespace Sys2Proof.Machine

/-- The states of several blocks. -/
abbrev Blocks := List State

/-- Block `k` takes one step and every other block stays. None where there is no block `k`, or its step stops. -/
def stepBlock (bs : Blocks) (k : Nat) : Option Blocks :=
  match bs[k]? with
  | none => none
  | some s =>
    match step s with
    | .next t => some (bs.set k t)
    | .fault _ => none
    | .refused _ => none

end Sys2Proof.Machine
end

