-- ==== Sys2Proof/Safety.lean ====
section
/-! DEFINITION. The terms claims are stated in: the invariant of every reachable state (10_state.md R24, R30, R31), the
key schedule as a function of the plaintext history (R23), what a run of host actions gives (00_scope.md R7), and which
states the host cannot tell apart (93_implementation_defined.md U4, U14). -/

namespace Sys2Proof.Machine

/-! ### The invariant -/

/-- Every entry of the table holds its constant value `T[i]` (10_state.md R24). -/
def TableHoldsT (m : Memory) : Prop := ∀ i : Byte, memRead m i = some (crcEntry i)

/-- What holds in every state a run can reach. -/
structure BlockInv (s : State) : Prop where
  /-- The table memory is in canonical form. -/
  wf : s.table.wf
  /-- `KVALID == 1` implies `TVALID == 1` (10_state.md R30). -/
  keysNeedTable : s.kvalid = true → s.tvalid = true
  /-- `TVALID == 1` means every entry holds `T[i]` (10_state.md R24, R31). -/
  built : s.tvalid = true → TableHoldsT s.table
  /-- `TVALID == 0` means the table holds no value (10_state.md R24). -/
  unbuilt : s.tvalid = false → s.table = []
  /-- A prebuilt table is never unbuilt (00_scope.md R6, 10_state.md R32). -/
  prebuilt : s.params.tablePrebuilt = true → s.tvalid = true

/-! ### The key schedule (10_state.md R23) -/

/-- The three key registers' values, a CipherState (10_state.md R20). -/
structure Keys where
  k0 : Word
  k1 : Word
  k2 : Word
deriving DecidableEq, Repr

/-- The CipherState a state holds. -/
def keysOf (s : State) : Keys := ⟨s.key0, s.key1, s.key2⟩

/-- `crc32_step` against the constant table (41_crc_table.md R82, R83). -/
def crcStep (byte : Byte) (crc : Word) : Word :=
  ((crc >>> 8) &&& 0x00FFFFFF) ^^^ crcEntry (lowByte (crc ^^^ zext32 byte))

/-- `update_keys` on a CipherState alone (42_cipher_engine.md R100). -/
def advance (k : Keys) (byte : Byte) : Keys :=
  let k0 := crcStep byte k.k0
  let k1 := mulAdd (k.k1 + zext32 (lowByte k0))
  ⟨k0, k1, crcStep (highByte k1) k.k2⟩

/-- The three constants (00_scope.md R4). -/
def initialKeys : Keys := ⟨Config.key0Init, Config.key1Init, Config.key2Init⟩

/-- `f(P, S)` of 10_state.md R23: `update_keys` once per byte of `P` and then once per byte of `S`. -/
def keySchedule (password plaintext : List Byte) : Keys := (password ++ plaintext).foldl advance initialKeys

/-! ### Runs -/

/-- The host takes the given actions one after another (00_scope.md R7), with nothing else pending. -/
def runActions (acts : List HostAction) (s : State) : Result :=
  Host.Core.run Sys2Proof.core acts.length { s with pending := acts }

/-- The host presents the given commands one after another. -/
def runCommands (is : List Instr) (s : State) : Result := runActions (is.map present) s

/-- The byte a response carries (30_encoding.md R61). -/
def Response.byte (r : Response) : Byte := lowByte r.dat

/-- One byte of a transform: its direction and its input. -/
abbrev Transform := Direction × Byte

/-- The command of a transform. -/
def transformCommand (d : Transform) : Instr :=
  match d.1 with
  | .decrypt => .dec d.2
  | .encrypt => .enc d.2

/-- The plaintext byte of a transform and its response: the recovered byte, or the input byte (10_state.md R23). -/
def plaintextOf (d : Transform) (r : Response) : Byte := drivingByte d.1 d.2 r.byte

/-! ### What the host can tell apart -/

/-- The two states differ at most in key registers that hold no CipherState (10_state.md R25). -/
structure SameVisible (s t : State) : Prop where
  params : s.params = t.params
  table : s.table = t.table
  tvalid : s.tvalid = t.tvalid
  kvalid : s.kvalid = t.kvalid
  pending : s.pending = t.pending
  responses : s.responses = t.responses
  hiddenCount : s.hiddenCount = t.hiddenCount
  keys : s.kvalid = true → keysOf s = keysOf t

/-- Two outcomes agree: next states the host cannot tell apart, or the same stop. -/
def SameOutcome : Result → Result → Prop
  | .next s, .next t => SameVisible s t
  | .fault e, .fault f => e = f
  | .refused e, .refused f => e = f
  | _, _ => False

end Sys2Proof.Machine
end

