-- ==== Sys2Proof/Certificates/Slice0/Obligations.lean ====
section
/-! DEFINITION. The statements for the provers. Each docstring names the rule of spec/ it comes from. -/

open Sys2Proof Sys2Proof.Machine

/-! ### Encoding (30_encoding.md) -/

/-- Decoding the word of a command gives the command back, with every operand (30_encoding.md section 3). -/
def Obligations.DecodeOfEncodeIsTheCommand : Prop :=
  ∀ i : Instr, decode (encode i) = .ok i

/-- A word that decodes is the word of the command it decodes to: no bit is dropped (30_encoding.md section 3). -/
def Obligations.EncodeOfDecodeIsTheWord : Prop :=
  ∀ (w : CmdWord) (i : Instr), decode w = .ok i → encode i = w

/-- A word decodes to a command exactly when it meets `(cmd & mask) == match` for a row of the opcode map, and the row is
that of the command's mnemonic (30_encoding.md section 3). -/
def Obligations.WordDecodesWhenARowMatches : Prop :=
  ∀ (w : CmdWord) (r : OpcodeRow), r ∈ opcodeMap →
    (w &&& r.mask = r.pattern ↔ ∃ i, decode w = .ok i ∧ i.mnemonic = r.mnemonic)

/-- No word satisfies two rows (30_encoding.md section 3). -/
def Obligations.NoWordMatchesTwoRows : Prop :=
  ∀ (w : CmdWord) (r r' : OpcodeRow), r ∈ opcodeMap → r' ∈ opcodeMap →
    w &&& r.mask = r.pattern → w &&& r'.mask = r'.pattern → r = r'

/-- Of the 65536 words, 1031 are legal (30_encoding.md section 4). -/
def Obligations.LegalWordsNumber1031 : Prop :=
  ((List.range 65536).filter fun n => legalWord (BitVec.ofNat 16 n)).length = 1031

/-- R64: the seven commands without an operand require a zero operand field; any other value is illegal. -/
def Obligations.NoOperandCommandsRequireZeroOperand : Prop :=
  ∀ (i : Instr) (opd : Byte), i ∈ ([.stat, .tbuild, .kinit, .kstrm, .kread0, .kread1, .kread2] : List Instr) →
    (opd = 0 → decode (joinFields (opcOf (encode i)) opd) = .ok i) ∧
    (opd ≠ 0 → decode (joinFields (opcOf (encode i)) opd) = .error .operandNotZero)

/-- Some words of 95_test_vectors.md section 2.6, one of each family and the corners. -/
def Obligations.SampleWordsDecodeAsListed : Prop :=
  decode 0x0100 = .ok .stat ∧ decode 0x1000 = .ok .tbuild ∧ decode 0x11FF = .ok (.tread 0xFF) ∧
  decode 0x2000 = .ok .kinit ∧ decode 0x2174 = .ok (.kupd 0x74) ∧ decode 0x2200 = .ok .kstrm ∧
  decode 0x2500 = .ok .kread2 ∧ decode 0x30FF = .ok (.dec 0xFF) ∧ decode 0x31AB = .ok (.enc 0xAB) ∧
  decode 0x2001 = .error .operandNotZero ∧ decode 0x0000 = .error .unassignedOpcode ∧
  decode 0xFFFF = .error .unassignedOpcode

/-- The response word carries the status code in bits 39:32 and the data in bits 31:0 (30_encoding.md section 1), and
the four codes are those of 60_exceptions.md section 1. -/
def Obligations.ResponseWordFields : Prop :=
  (∀ r : Response, r.word.extractLsb' 32 8 = r.sts.code ∧ r.word.extractLsb' 0 32 = r.dat) ∧
  Status.ok.code = 0x00 ∧ Status.illegal.code = 0x01 ∧ Status.noKey.code = 0x02 ∧ Status.noTable.code = 0x03

/-! ### The functions of the table (41_crc_table.md) -/

/-- R80, bit by bit: bit `j` of a round is bit `j + 1` of `crc` (zero above bit 31), XORed with bit `j` of the polynomial
when bit 0 of `crc` was set. -/
def Obligations.CrcRoundBitByBit : Prop :=
  ∀ (crc : Word) (j : Nat), j < 32 →
    (crcRound crc).getLsbD j = ((crc.getLsbD (j + 1)) ^^ (crc.getLsbD 0 && (0xEDB88320 : Word).getLsbD j))

/-- R81: a table entry is exactly eight rounds from the zero-extended index. -/
def Obligations.CrcEntryIsEightRounds : Prop :=
  ∀ i : Byte, crcEntry i = crcRound^[8] (i.setWidth 32)

/-- The table is linear over XOR (derived from R80 and R81): the entry of the XOR of two indices is the XOR of their
entries. -/
def Obligations.CrcEntryOfXorIsXor : Prop :=
  ∀ i j : Byte, crcEntry (i ^^^ j) = crcEntry i ^^^ crcEntry j

/-- All 256 entries are distinct (95_test_vectors.md section 2.1). -/
def Obligations.CrcEntriesAreDistinct : Prop :=
  ∀ i j : Byte, crcEntry i = crcEntry j → i = j

/-- R83: with the table built, `crc32_step` is `((crc >> 8) & 0x00FFFFFF) ^ T[(crc ^ byte) & 0xFF]`. -/
def Obligations.Crc32StepOnBuiltTable : Prop :=
  ∀ (s : State) (byte : Byte) (crc : Word), BlockInv s → s.tvalid = true →
    crc32Step s.table byte crc
      = some (((crc >>> 8) &&& 0x00FFFFFF) ^^^ crcEntry ((crc ^^^ byte.setWidth 32).setWidth 8))

/-! ### The functions of the engine (42_cipher_engine.md) -/

/-- R100: the four steps of `update_keys`, in numbers modulo 2^32, each seeing the ones before it; nothing else changes. -/
def Obligations.UpdateKeysTakesFourSteps : Prop :=
  ∀ (s : State) (byte : Byte), BlockInv s → s.tvalid = true →
    ∃ t, updateKeys byte s = some t ∧
      t.key0 = ((s.key0 >>> 8) &&& 0x00FFFFFF) ^^^ crcEntry ((s.key0 ^^^ byte.setWidth 32).setWidth 8) ∧
      t.key1.toNat = (134775813 * ((s.key1.toNat + t.key0.toNat % 256) % 2 ^ 32) + 1) % 2 ^ 32 ∧
      t.key2 = ((s.key2 >>> 8) &&& 0x00FFFFFF)
        ^^^ crcEntry ((s.key2 ^^^ (BitVec.ofNat 8 (t.key1.toNat / 2 ^ 24)).setWidth 32).setWidth 8) ∧
      t = { s with key0 := t.key0, key1 := t.key1, key2 := t.key2 }

/-- R101: with `k = (key2 & 0xFFFF) | 2`, the keystream byte is bits 15:8 of the full product `k * (k ^ 1)`. -/
def Obligations.KeystreamIsBits15To8OfProduct : Prop :=
  ∀ s : State, (keystream s).toNat
    = ((s.key2.toNat % 2 ^ 16 ||| 2) * ((s.key2.toNat % 2 ^ 16 ||| 2) ^^^ 1)) / 2 ^ 8 % 2 ^ 8

/-- The keystream is a function of `key2[15:2]` alone (42_cipher_engine.md section 1). -/
def Obligations.KeystreamDependsOnBits15To2 : Prop :=
  ∀ s t : State, s.key2.extractLsb' 2 14 = t.key2.extractLsb' 2 14 → keystream s = keystream t

/-! ### The commands: what each answers and leaves -/

/-- R130: `STAT` answers `TVALID` in bit 0 and `KVALID` in bit 1, zero above, and changes nothing, in every state; in a
state that meets the invariant the answer is 0, 1 or 3. -/
def Obligations.StatAnswersTheFlags : Prop :=
  ∀ s : State,
    exec .stat s = .next { s with responses := s.responses ++
      [⟨.ok, BitVec.ofNat 32 (s.tvalid.toNat + 2 * s.kvalid.toNat)⟩] } ∧
    (BlockInv s → status s = BitVec.ofNat 32 (s.tvalid.toNat + 2 * s.kvalid.toNat) ∧
      (status s = 0 ∨ status s = 1 ∨ status s = 3))

/-- R84: `TBUILD` writes `T[i]` to every entry, sets `TVALID`, answers `OK` with 0, and changes nothing else. -/
def Obligations.TbuildWritesEveryEntry : Prop :=
  ∀ s : State, ∃ t, exec .tbuild s = .next t ∧ (∀ i : Byte, memRead t.table i = some (crcEntry i)) ∧
    t = { s with table := t.table, tvalid := true, responses := s.responses ++ [⟨.ok, 0⟩] }

/-- R86: with the table built, running the builder changes nothing: `TBUILD` only answers. -/
def Obligations.RebuildChangesNothing : Prop :=
  ∀ s : State, BlockInv s → s.tvalid = true →
    exec .tbuild s = .next { s with responses := s.responses ++ [⟨.ok, 0⟩] }

/-- R85: `TREAD idx` answers `T[idx]` when the table is built and `E_NOTABLE` with 0 when it is not, and changes nothing. -/
def Obligations.TreadAnswersTheEntry : Prop :=
  ∀ (s : State) (idx : Byte), BlockInv s →
    (s.tvalid = true → exec (.tread idx) s = .next { s with responses := s.responses ++ [⟨.ok, crcEntry idx⟩] }) ∧
    (s.tvalid = false → exec (.tread idx) s = .next { s with responses := s.responses ++ [⟨.noTable, 0⟩] })

/-- R102: `KINIT` loads the three constants, sets `KVALID`, builds the table if it is unbuilt and leaves it as it is
otherwise, answers `OK` with 0, and changes nothing else, in every state. -/
def Obligations.KinitLoadsTheConstants : Prop :=
  ∀ s : State, ∃ t, exec .kinit s = .next t ∧
    t = { s with
      key0 := 0x12345678, key1 := 0x23456789, key2 := 0x34567890
      kvalid := true, tvalid := true, table := t.table, responses := s.responses ++ [⟨.ok, 0⟩] } ∧
    (s.tvalid = true → t.table = s.table) ∧
    (s.tvalid = false → ∀ i : Byte, memRead t.table i = some (crcEntry i))

/-- R103: in a ready block `KUPD byte` is `update_keys(byte)` and the answer `OK` with 0; otherwise `E_NOKEY`. -/
def Obligations.KupdAdvancesTheKeys : Prop :=
  ∀ (s : State) (byte : Byte), BlockInv s →
    (s.kvalid = true → exec (.kupd byte) s = .next { s with
      key0 := (advance (keysOf s) byte).k0
      key1 := (advance (keysOf s) byte).k1
      key2 := (advance (keysOf s) byte).k2
      responses := s.responses ++ [⟨.ok, 0⟩] }) ∧
    (s.kvalid = false → exec (.kupd byte) s = .next { s with responses := s.responses ++ [⟨.noKey, 0⟩] })

/-- R104: in a ready block `KSTRM` answers the keystream byte, bits 15:8 of the product of R101, and changes nothing;
otherwise `E_NOKEY`. -/
def Obligations.KstrmAnswersTheKeystreamByte : Prop :=
  ∀ s : State,
    (s.kvalid = true → exec .kstrm s = .next { s with responses := s.responses ++
      [⟨.ok, BitVec.ofNat 32
        (((s.key2.toNat % 2 ^ 16 ||| 2) * ((s.key2.toNat % 2 ^ 16 ||| 2) ^^^ 1)) / 2 ^ 8 % 2 ^ 8)⟩] }) ∧
    (s.kvalid = false → exec .kstrm s = .next { s with responses := s.responses ++ [⟨.noKey, 0⟩] })

/-- R131, R132, R133: in a ready block the three reads answer their register; otherwise `E_NOKEY`. -/
def Obligations.KreadsAnswerTheirRegister : Prop :=
  ∀ s : State,
    (s.kvalid = true →
      exec .kread0 s = .next { s with responses := s.responses ++ [⟨.ok, s.key0⟩] } ∧
      exec .kread1 s = .next { s with responses := s.responses ++ [⟨.ok, s.key1⟩] } ∧
      exec .kread2 s = .next { s with responses := s.responses ++ [⟨.ok, s.key2⟩] }) ∧
    (s.kvalid = false →
      exec .kread0 s = .next { s with responses := s.responses ++ [⟨.noKey, 0⟩] } ∧
      exec .kread1 s = .next { s with responses := s.responses ++ [⟨.noKey, 0⟩] } ∧
      exec .kread2 s = .next { s with responses := s.responses ++ [⟨.noKey, 0⟩] })

/-- R105: in a ready block `DEC c` answers `p = c ^ keystream` and advances the keys with the recovered plaintext `p`;
otherwise `E_NOKEY`. -/
def Obligations.DecAdvancesWithRecoveredPlaintext : Prop :=
  ∀ (s : State) (c : Byte), BlockInv s →
    (s.kvalid = true → exec (.dec c) s = .next { s with
      key0 := (advance (keysOf s) (c ^^^ keystream s)).k0
      key1 := (advance (keysOf s) (c ^^^ keystream s)).k1
      key2 := (advance (keysOf s) (c ^^^ keystream s)).k2
      responses := s.responses ++ [⟨.ok, (c ^^^ keystream s).setWidth 32⟩] }) ∧
    (s.kvalid = false → exec (.dec c) s = .next { s with responses := s.responses ++ [⟨.noKey, 0⟩] })

/-- R106: in a ready block `ENC p` answers `p ^ keystream` and advances the keys with the input plaintext `p`; otherwise
`E_NOKEY`. -/
def Obligations.EncAdvancesWithInputPlaintext : Prop :=
  ∀ (s : State) (p : Byte), BlockInv s →
    (s.kvalid = true → exec (.enc p) s = .next { s with
      key0 := (advance (keysOf s) p).k0
      key1 := (advance (keysOf s) p).k1
      key2 := (advance (keysOf s) p).k2
      responses := s.responses ++ [⟨.ok, (p ^^^ keystream s).setWidth 32⟩] }) ∧
    (s.kvalid = false → exec (.enc p) s = .next { s with responses := s.responses ++ [⟨.noKey, 0⟩] })

/-- `ENC p` and then, from the same key state, `DEC` of the byte it answered: the plaintext comes back and both leave the
same keys (42_cipher_engine.md section 4; 95_test_vectors.md section 2.8). -/
def Obligations.DecUndoesEncByteByByte : Prop :=
  ∀ (s t : State) (p : Byte) (r : Response), BlockInv s → s.kvalid = true →
    exec (.enc p) s = .next t → t.responses = s.responses ++ [r] →
    exec (.dec r.byte) s = .next { t with responses := s.responses ++ [⟨.ok, p.setWidth 32⟩] }

/-- Where the low half of `key2` is 0x0000 or 0xFFFF the keystream byte is 0 and the output equals the input, so
non-identity is no law (42_cipher_engine.md section 4). -/
def Obligations.OutputMayEqualInput : Prop :=
  ∀ (s : State) (b : Byte), BlockInv s → s.kvalid = true → (s.key2.setWidth 16 = 0 ∨ s.key2.setWidth 16 = 0xFFFF) →
    ∃ t u, exec (.enc b) s = .next t ∧ exec (.dec b) s = .next u ∧
      t.responses = s.responses ++ [⟨.ok, b.setWidth 32⟩] ∧ u = t

/-! ### Errors (60_exceptions.md) -/

/-- R141: a word that matches no row is answered `E_ILLEGAL` with 0 and changes nothing, whatever the state; and no other
word is ever answered so. -/
def Obligations.IllegalWordsAnswerIllegal : Prop :=
  ∀ (s : State) (w : CmdWord) (rest : List HostAction), s.pending = .command w :: rest →
    ((∀ r ∈ opcodeMap, w &&& r.mask ≠ r.pattern) →
      step s = .next { s with pending := rest, responses := s.responses ++ [⟨.illegal, 0⟩] }) ∧
    ((∃ r ∈ opcodeMap, w &&& r.mask = r.pattern) →
      ∀ t r, step s = .next t → t.responses = s.responses ++ [r] → r.sts ≠ .illegal)

/-- R142: the seven commands that read a key register answer `E_NOKEY` when `KVALID == 0`, and nothing changes. -/
def Obligations.KeyCommandsNeedKeys : Prop :=
  ∀ (s : State) (b : Byte) (i : Instr), s.kvalid = false →
    i ∈ ([.kupd b, .kstrm, .dec b, .enc b, .kread0, .kread1, .kread2] : List Instr) →
    exec i s = .next { s with responses := s.responses ++ [⟨.noKey, 0⟩] }

/-- R143: `E_NOTABLE` is raised by `TREAD` when `TVALID == 0`, and by no other command and in no other state. -/
def Obligations.OnlyTreadRaisesNoTable : Prop :=
  ∀ (s : State) (i : Instr),
    (∀ idx, i = .tread idx → s.tvalid = false →
      exec i s = .next { s with responses := s.responses ++ [⟨.noTable, 0⟩] }) ∧
    (∀ t r, exec i s = .next t → t.responses = s.responses ++ [r] → r.sts = .noTable →
      s.tvalid = false ∧ ∃ idx, i = .tread idx)

/-- R144: an error response carries 0 and no state changes: the command is taken from the host, the response given, and
nothing else happens. -/
def Obligations.ErrorsChangeNothing : Prop :=
  ∀ (s t : State) (w : CmdWord) (rest : List HostAction) (r : Response), s.pending = .command w :: rest →
    step s = .next t → t.responses = s.responses ++ [r] → r.sts ≠ .ok →
    r.dat = 0 ∧ t = { s with pending := rest, responses := s.responses ++ [r] }

/-- R114: once `KVALID == 1`, every `KUPD`, `KSTRM`, `DEC` and `ENC` answers `OK`, whatever its operand and the keys. -/
def Obligations.ReadyBlockAlwaysAnswersOk : Prop :=
  ∀ (s : State) (b : Byte) (i : Instr), BlockInv s → s.kvalid = true → i ∈ ([.kupd b, .kstrm, .dec b, .enc b] : List Instr) →
    ∃ t d, exec i s = .next t ∧ t.responses = s.responses ++ [⟨.ok, d⟩] ∧ t.kvalid = true

/-! ### Frames -/

/-- The six read-only commands change nothing but the responses: every register, both flags and every table entry stay
(60_exceptions.md section 9, 10_state.md section 1). -/
def Obligations.ReadOnlyCommandsFrame : Prop :=
  ∀ (s t : State) (idx : Byte) (i : Instr),
    i ∈ ([.stat, .tread idx, .kstrm, .kread0, .kread1, .kread2] : List Instr) → exec i s = .next t →
    (∀ a : Byte, memRead t.table a = memRead s.table a) ∧ t = { s with responses := t.responses }

/-- `KUPD`, `DEC` and `ENC` change the three key registers and the responses and nothing else: both flags and every table
entry stay (42_cipher_engine.md section 2). -/
def Obligations.KeyUpdatesFrame : Prop :=
  ∀ (s t : State) (b : Byte) (i : Instr), i ∈ ([.kupd b, .dec b, .enc b] : List Instr) → exec i s = .next t →
    (∀ a : Byte, memRead t.table a = memRead s.table a) ∧
    t = { s with key0 := t.key0, key1 := t.key1, key2 := t.key2, responses := t.responses }

/-- `TBUILD` changes the table, `TVALID` and the responses, and `KINIT` those, the key registers and `KVALID`; with the
table built `KINIT` leaves every entry (41_crc_table.md section 2, 42_cipher_engine.md section 2). -/
def Obligations.BuildersFrame : Prop :=
  ∀ s t : State,
    (exec .tbuild s = .next t →
      t = { s with table := t.table, tvalid := t.tvalid, responses := t.responses }) ∧
    (exec .kinit s = .next t →
      (s.tvalid = true → ∀ a : Byte, memRead t.table a = memRead s.table a) ∧
      t = { s with
        key0 := t.key0, key1 := t.key1, key2 := t.key2, kvalid := t.kvalid
        table := t.table, tvalid := t.tvalid, responses := t.responses })

/-- No command writes a key register but `KINIT`, `KUPD`, `DEC` and `ENC`, and `KINIT` writes only the three constants:
the host cannot write a value of its choice (10_state.md section 1). -/
def Obligations.KeysWrittenByFourCommands : Prop :=
  ∀ (s t : State) (i : Instr), exec i s = .next t →
    keysOf t = keysOf s ∨ (i = .kinit ∧ keysOf t = initialKeys) ∨
      (s.kvalid = true ∧ ∃ b, i = .kupd b ∨ i = .dec b ∨ i = .enc b)

/-- No command clears a flag; only `KINIT` sets `KVALID`, only `TBUILD` and `KINIT` set `TVALID` (10_state.md section 3). -/
def Obligations.CommandsNeverClearAFlag : Prop :=
  ∀ (s t : State) (i : Instr), exec i s = .next t →
    (s.tvalid = true → t.tvalid = true) ∧ (s.kvalid = true → t.kvalid = true) ∧
    (s.kvalid = false → t.kvalid = true → i = .kinit) ∧
    (s.tvalid = false → t.tvalid = true → i = .kinit ∨ i = .tbuild)

/-- Once the table is built no command changes the value of an entry (10_state.md section 6). -/
def Obligations.BuiltTableIsImmutable : Prop :=
  ∀ (s t : State) (i : Instr), BlockInv s → s.tvalid = true → exec i s = .next t →
    t.table = s.table ∧ ∀ a : Byte, memRead t.table a = some (crcEntry a)

/-! ### Steps, reset and invariants -/

/-- A step runs the decoded command: the host's word is taken, and `exec` of the command it decodes to is the step
(30_encoding.md section 1). -/
def Obligations.StepRunsTheDecodedCommand : Prop :=
  ∀ (s : State) (w : CmdWord) (i : Instr) (rest : List HostAction),
    s.pending = .command w :: rest → decode w = .ok i → step s = exec i { s with pending := rest }

/-- With no action pending the block waits: a step leaves the state. The model's choice, notes/assumptions/1.md. -/
def Obligations.IdleBlockWaits : Prop :=
  ∀ s : State, s.pending = [] → step s = .next s

/-- Every command word, legal or not, is answered by exactly one response, put after the responses already given
(30_encoding.md section 1). -/
def Obligations.OneResponsePerCommand : Prop :=
  ∀ (s : State) (ws : List CmdWord), BlockInv s →
    ∃ t rs, runActions (ws.map HostAction.command) s = .next t ∧ t.responses = s.responses ++ rs ∧
      rs.length = ws.length ∧ t.pending = []

/-- What RESET leaves (70_reset_and_hazards.md section 1, 10_state.md section 9): `KVALID` 0, `TVALID` the parameter, the
table holding `T` when prebuilt and no value otherwise. Nothing is said of the key bits, which are free values
(notes/assumptions/3.md). -/
def Obligations.ResetClearsTheFlags : Prop :=
  ∀ (s : State) (rest : List HostAction), s.pending = .reset :: rest →
    ∃ t, step s = .next t ∧ t.kvalid = false ∧ t.tvalid = s.params.tablePrebuilt ∧
      (s.params.tablePrebuilt = true → ∀ i : Byte, memRead t.table i = some (crcEntry i)) ∧
      (s.params.tablePrebuilt = false → ∀ i : Byte, memRead t.table i = none) ∧
      t.pending = rest ∧ t.responses = s.responses ∧ t.params = s.params

/-- A reset invalidates all state a command could have written: after any command that completes, RESET leaves the state
it would have left without the command, but for the response already given (70_reset_and_hazards.md section 1). The
equality takes in the unspecified key bits and the counter of free values: that these do not depend on the command is the
MODEL'S CHOICE (DESIGN CHOICE, notes/assumptions/3.md), for the spec gives those bits any value (U14). -/
def Obligations.ResetForgetsTheCommand : Prop :=
  ∀ (s t : State) (i : Instr), exec i s = .next t →
    resetBlock t = { resetBlock s with responses := t.responses }

/-- A reset wins over the command it cuts off: no response, and the state a RESET alone would leave
(70_reset_and_hazards.md section 1, 60_exceptions.md section 3). The separate action is the MODEL'S CHOICE
(notes/assumptions/7.md), and so is that the unspecified key bits are the same in both (notes/assumptions/3.md). -/
def Obligations.ResetWinsOverItsCommand : Prop :=
  ∀ (s t : State) (w : CmdWord) (rest : List HostAction), s.pending = .resetDuring w :: rest → step s = .next t →
    t.responses = s.responses ∧ step { s with pending := .reset :: rest } = .next t

/-- The state after reset satisfies the invariant. -/
def Obligations.ResetStateMeetsInv : Prop := BlockInv State.reset

/-- The values the spec gives for reset (10_state.md section 9, with the default parameter): both flags 0, `STATUS` 0, no
table entry readable. -/
def Obligations.ResetStateValues : Prop :=
  State.reset.kvalid = false ∧ State.reset.tvalid = false ∧ status State.reset = 0 ∧
    ∀ i : Byte, memRead State.reset.table i = none

/-- Every step keeps the invariant: the table memory in canonical form, holding `T` when `TVALID` and no value otherwise,
and `KVALID` implying `TVALID` (10_state.md sections 3 and 6). -/
def Obligations.EveryStepKeepsInv : Prop :=
  ∀ s t : State, BlockInv s → step s = .next t → BlockInv t

/-- No step stops: in every state that meets the invariant a step answers a next state that meets it
(60_exceptions.md section 5). -/
def Obligations.NoStepStops : Prop :=
  ∀ s : State, BlockInv s → ∃ t, step s = .next t ∧ BlockInv t

/-- R30: `KVALID == 1` implies `TVALID == 1` in every state a run can reach: any host actions, either value of the
parameter, any number of steps. -/
def Obligations.KvalidImpliesTvalidInEveryRun : Prop :=
  ∀ (p : Params) (acts : List HostAction) (n : Nat) (t : State),
    Host.Core.run Sys2Proof.core (n + 1) { State.reset with params := p, pending := .reset :: acts } = .next t →
    t.kvalid = true → t.tvalid = true

/-- The key bits that hold no CipherState are never seen: states that differ only there step to states that differ only
there, or stop alike (10_state.md section 3, 93_implementation_defined.md section 1). -/
def Obligations.HiddenKeyBitsAreNeverSeen : Prop :=
  ∀ s t : State, SameVisible s t → SameOutcome (step s) (step t)

/-- Blocks share no state: stepping two different blocks in either order gives the same (60_exceptions.md section 8). -/
def Obligations.BlocksAreIndependent : Prop :=
  ∀ (bs : Blocks) (j k : Nat), j ≠ k →
    ((stepBlock bs j).bind fun b => stepBlock b k) = ((stepBlock bs k).bind fun b => stepBlock b j)

/-! ### The laws of the cipher (42_cipher_engine.md section 4) -/

/-- R23: after `NEW P` and any mix of `DEC` and `ENC`, the keys are `f(P, S)` for the plaintext bytes `S`: the recovered
byte of each `DEC`, the input byte of each `ENC`. Every response is `OK`. -/
def Obligations.KeysAreTheScheduleOfThePlaintext : Prop :=
  ∀ (s : State) (password : List Byte) (ds : List Transform), BlockInv s →
    ∃ t rs, runCommands (expand (.newCipher password) ++ ds.map transformCommand) s = .next t ∧
      t.responses = s.responses ++ List.replicate (password.length + 1) ⟨.ok, 0⟩ ++ rs ∧
      rs.length = ds.length ∧ (∀ r ∈ rs, r.sts = .ok) ∧ t.kvalid = true ∧
      keysOf t = keySchedule password (List.zipWith plaintextOf ds rs)

/-- R109: `NEW P; ENCRYPT S` and then `NEW P; DECRYPT` of the ciphertext returns `S`, and the same the other way round. -/
def Obligations.RoundTripReturnsTheBuffer : Prop :=
  ∀ (s : State) (password buffer : List Byte), BlockInv s →
    (∃ t u rs, runCommands (expand (.newCipher password) ++ expand (.encryptBuffer buffer)) s = .next t ∧
      t.responses = s.responses ++ List.replicate (password.length + 1) ⟨.ok, 0⟩ ++ rs ∧
      runCommands (expand (.newCipher password) ++ expand (.decryptBuffer (rs.map Response.byte))) t = .next u ∧
      u.responses = t.responses ++ List.replicate (password.length + 1) ⟨.ok, 0⟩
        ++ buffer.map fun b => ⟨.ok, b.setWidth 32⟩) ∧
    (∃ t u rs, runCommands (expand (.newCipher password) ++ expand (.decryptBuffer buffer)) s = .next t ∧
      t.responses = s.responses ++ List.replicate (password.length + 1) ⟨.ok, 0⟩ ++ rs ∧
      runCommands (expand (.newCipher password) ++ expand (.encryptBuffer (rs.map Response.byte))) t = .next u ∧
      u.responses = t.responses ++ List.replicate (password.length + 1) ⟨.ok, 0⟩
        ++ buffer.map fun b => ⟨.ok, b.setWidth 32⟩)

/-- R110: after `NEW P; ENCRYPT S` and after `NEW P; DECRYPT` of its ciphertext the keys are the same, `f(P, S)`. -/
def Obligations.BothDirectionsLeaveTheSameKeys : Prop :=
  ∀ (s : State) (password buffer : List Byte), BlockInv s →
    ∃ t u rs, runCommands (expand (.newCipher password) ++ expand (.encryptBuffer buffer)) s = .next t ∧
      t.responses = s.responses ++ List.replicate (password.length + 1) ⟨.ok, 0⟩ ++ rs ∧
      runCommands (expand (.newCipher password) ++ expand (.decryptBuffer (rs.map Response.byte))) s = .next u ∧
      keysOf t = keySchedule password buffer ∧ keysOf u = keySchedule password buffer

/-- R111: feeding a buffer in two chunks is feeding it whole, with the same responses and the same state, in either
direction; and any number of read-only commands and `TBUILD`s between two data bytes changes neither the later answer nor
the keys it leaves. -/
def Obligations.ChunksAndReadsMakeNoDifference : Prop :=
  (∀ (s t : State) (first second : List Byte),
    (runCommands (expand (.decryptBuffer first)) s = .next t →
      runCommands (expand (.decryptBuffer (first ++ second))) s = runCommands (expand (.decryptBuffer second)) t) ∧
    (runCommands (expand (.encryptBuffer first)) s = .next t →
      runCommands (expand (.encryptBuffer (first ++ second))) s = runCommands (expand (.encryptBuffer second)) t)) ∧
  (∀ (s : State) (between : List Instr) (b : Byte), BlockInv s → s.kvalid = true →
    (∀ i ∈ between, i ∈ ([.stat, .kstrm, .kread0, .kread1, .kread2, .tbuild] : List Instr) ∨ ∃ idx, i = .tread idx) →
    ∃ t, runCommands between s = .next t ∧ keysOf t = keysOf s ∧
      ∀ j ∈ ([.kupd b, .dec b, .enc b] : List Instr), ∃ u v r, exec j s = .next u ∧ exec j t = .next v ∧
        u.responses = s.responses ++ [r] ∧ v.responses = t.responses ++ [r] ∧ keysOf v = keysOf u)

/-- R112: from a ready block a buffer of any length gives exactly one byte of output for each byte of input, in either
direction. -/
def Obligations.OutputLengthEqualsInputLength : Prop :=
  ∀ (s : State) (buffer : List Byte), BlockInv s → s.kvalid = true →
    ∀ op ∈ [CallerOp.decryptBuffer buffer, CallerOp.encryptBuffer buffer],
      ∃ t out, runCommands (expand op) s = .next t ∧ (out : List Byte).length = buffer.length ∧
        t.responses = s.responses ++ out.map fun b => ⟨.ok, b.setWidth 32⟩

/-- R113: the same password and the same transforms give the same output and the same keys from any two states, whatever
the block did before and whichever value the parameter has. -/
def Obligations.SameInputsGiveTheSameOutput : Prop :=
  ∀ (s s' : State) (password : List Byte) (ds : List Transform), BlockInv s → BlockInv s' →
    ∃ t t' rs, runCommands (expand (.newCipher password) ++ ds.map transformCommand) s = .next t ∧
      runCommands (expand (.newCipher password) ++ ds.map transformCommand) s' = .next t' ∧
      t.responses = s.responses ++ rs ∧ t'.responses = s'.responses ++ rs ∧ keysOf t = keysOf t'

/-! ### The assembler (30_encoding.md section 6) -/

/-- The line of a command assembles to the command's own word, for every command and operand (30_encoding.md section 6). That
the printed hexadecimal digits are capitals is the MODEL'S CHOICE (notes/assumptions/8.md). -/
def Obligations.LineOfCommandAssembles : Prop :=
  ∀ i : Instr, assembleLine (lineOf i) = .ok [.command (encode i)]

/-- `NEW` with a string in double quotes is `KINIT` and one `KUPD` for each character's ASCII code (30_encoding.md
section 6). That a `;` between the quotes starts no comment, that a backslash escapes nothing, and the one space after
`NEW` are the MODEL'S CHOICE (DESIGN CHOICE, notes/assumptions/8.md); the spec says of `;` only that it starts a
comment. -/
def Obligations.NewLineExpandsToItsBytes : Prop :=
  ∀ cs : List Char, (∀ c ∈ cs, 32 ≤ c.toNat ∧ c.toNat ≤ 126 ∧ c ≠ '"') →
    assembleLine ("NEW ".toList ++ '"' :: (cs ++ ['"']))
      = .ok (.command (encode .kinit) :: cs.map fun c => .command (encode (.kupd (BitVec.ofNat 8 c.toNat))))
end

