-- ==== Sys2Proof/Laws/Encoding.lean ====
section
/-! SUPPORT. The fields of a word and the word of two fields (30_encoding.md R60). -/

namespace Sys2Proof

/-- The opcode of `opc ‖ opd`. -/
@[simp] theorem opcOf_joinFields (opc opd : Byte) : opcOf (joinFields opc opd) = opc :=
  BitVec.extractLsb'_append_eq_left

/-- The operand of `opc ‖ opd`. -/
@[simp] theorem opdOf_joinFields (opc opd : Byte) : opdOf (joinFields opc opd) = opd :=
  BitVec.extractLsb'_append_eq_right

/-- A word is its two fields. -/
theorem joinFields_fields (w : CmdWord) : joinFields (opcOf w) (opdOf w) = w := by
  apply BitVec.eq_of_toNat_eq
  have h : (joinFields (opcOf w) (opdOf w)).toNat = (w.toNat >>> 8 % 2 ^ 8) <<< 8 ||| w.toNat >>> 0 % 2 ^ 8 := by
    unfold joinFields
    exact BitVec.toNat_append ..
  rw [h]
  apply Nat.eq_of_testBit_eq
  intro i
  have hw := w.isLt
  simp only [Nat.testBit_or, Nat.testBit_shiftLeft, Nat.testBit_mod_two_pow, Nat.testBit_shiftRight]
  by_cases hi : i < 8
  · simp [hi]
  · by_cases hj : i < 16
    · have : i - 8 < 8 := by omega
      have e : 8 + (i - 8) = i := by omega
      simp [hi, this, e, Nat.le_of_not_lt hi]
    · have : ¬ i - 8 < 8 := by omega
      have z : w.toNat.testBit i = false :=
        Nat.testBit_lt_two_pow (hw.trans_le (Nat.pow_le_pow_right (by omega) (by omega)))
      simp [hi, this, z]

/-- Two words with the same fields are one word. -/
theorem eq_of_fields {v w : CmdWord} (h1 : opcOf v = opcOf w) (h2 : opdOf v = opdOf w) : v = w := by
  rw [← joinFields_fields v, ← joinFields_fields w, h1, h2]

end Sys2Proof
end

