-- ==== Sys2Proof/Laws/State.lean ====
section
/-! SUPPORT. One lemma per field per update of the state, each true by `rfl`, so that no later proof unfolds an update. -/

namespace Sys2Proof.Machine

@[simp] theorem respond_params (e : Status) (d : Word) (s : State) : (respond e d s).params = s.params := rfl
@[simp] theorem respond_key0 (e : Status) (d : Word) (s : State) : (respond e d s).key0 = s.key0 := rfl
@[simp] theorem respond_key1 (e : Status) (d : Word) (s : State) : (respond e d s).key1 = s.key1 := rfl
@[simp] theorem respond_key2 (e : Status) (d : Word) (s : State) : (respond e d s).key2 = s.key2 := rfl
@[simp] theorem respond_table (e : Status) (d : Word) (s : State) : (respond e d s).table = s.table := rfl
@[simp] theorem respond_tvalid (e : Status) (d : Word) (s : State) : (respond e d s).tvalid = s.tvalid := rfl
@[simp] theorem respond_kvalid (e : Status) (d : Word) (s : State) : (respond e d s).kvalid = s.kvalid := rfl
@[simp] theorem respond_pending (e : Status) (d : Word) (s : State) : (respond e d s).pending = s.pending := rfl
@[simp] theorem respond_responses (e : Status) (d : Word) (s : State) : (respond e d s).responses = s.responses ++ [⟨e, d⟩] := rfl
@[simp] theorem respond_hiddenCount (e : Status) (d : Word) (s : State) : (respond e d s).hiddenCount = s.hiddenCount := rfl

@[simp] theorem raise_params (e : Status) (s : State) : (raise e s).params = s.params := rfl
@[simp] theorem raise_key0 (e : Status) (s : State) : (raise e s).key0 = s.key0 := rfl
@[simp] theorem raise_key1 (e : Status) (s : State) : (raise e s).key1 = s.key1 := rfl
@[simp] theorem raise_key2 (e : Status) (s : State) : (raise e s).key2 = s.key2 := rfl
@[simp] theorem raise_table (e : Status) (s : State) : (raise e s).table = s.table := rfl
@[simp] theorem raise_tvalid (e : Status) (s : State) : (raise e s).tvalid = s.tvalid := rfl
@[simp] theorem raise_kvalid (e : Status) (s : State) : (raise e s).kvalid = s.kvalid := rfl
@[simp] theorem raise_pending (e : Status) (s : State) : (raise e s).pending = s.pending := rfl
@[simp] theorem raise_responses (e : Status) (s : State) : (raise e s).responses = s.responses ++ [⟨e, 0⟩] := rfl
@[simp] theorem raise_hiddenCount (e : Status) (s : State) : (raise e s).hiddenCount = s.hiddenCount := rfl

@[simp] theorem writeKey0_params (v : Word) (s : State) : (writeKey 0 v s).params = s.params := rfl
@[simp] theorem writeKey0_key0 (v : Word) (s : State) : (writeKey 0 v s).key0 = v := rfl
@[simp] theorem writeKey0_key1 (v : Word) (s : State) : (writeKey 0 v s).key1 = s.key1 := rfl
@[simp] theorem writeKey0_key2 (v : Word) (s : State) : (writeKey 0 v s).key2 = s.key2 := rfl
@[simp] theorem writeKey0_table (v : Word) (s : State) : (writeKey 0 v s).table = s.table := rfl
@[simp] theorem writeKey0_tvalid (v : Word) (s : State) : (writeKey 0 v s).tvalid = s.tvalid := rfl
@[simp] theorem writeKey0_kvalid (v : Word) (s : State) : (writeKey 0 v s).kvalid = s.kvalid := rfl
@[simp] theorem writeKey0_pending (v : Word) (s : State) : (writeKey 0 v s).pending = s.pending := rfl
@[simp] theorem writeKey0_responses (v : Word) (s : State) : (writeKey 0 v s).responses = s.responses := rfl
@[simp] theorem writeKey0_hiddenCount (v : Word) (s : State) : (writeKey 0 v s).hiddenCount = s.hiddenCount := rfl

@[simp] theorem writeKey1_params (v : Word) (s : State) : (writeKey 1 v s).params = s.params := rfl
@[simp] theorem writeKey1_key0 (v : Word) (s : State) : (writeKey 1 v s).key0 = s.key0 := rfl
@[simp] theorem writeKey1_key1 (v : Word) (s : State) : (writeKey 1 v s).key1 = v := rfl
@[simp] theorem writeKey1_key2 (v : Word) (s : State) : (writeKey 1 v s).key2 = s.key2 := rfl
@[simp] theorem writeKey1_table (v : Word) (s : State) : (writeKey 1 v s).table = s.table := rfl
@[simp] theorem writeKey1_tvalid (v : Word) (s : State) : (writeKey 1 v s).tvalid = s.tvalid := rfl
@[simp] theorem writeKey1_kvalid (v : Word) (s : State) : (writeKey 1 v s).kvalid = s.kvalid := rfl
@[simp] theorem writeKey1_pending (v : Word) (s : State) : (writeKey 1 v s).pending = s.pending := rfl
@[simp] theorem writeKey1_responses (v : Word) (s : State) : (writeKey 1 v s).responses = s.responses := rfl
@[simp] theorem writeKey1_hiddenCount (v : Word) (s : State) : (writeKey 1 v s).hiddenCount = s.hiddenCount := rfl

@[simp] theorem writeKey2_params (v : Word) (s : State) : (writeKey 2 v s).params = s.params := rfl
@[simp] theorem writeKey2_key0 (v : Word) (s : State) : (writeKey 2 v s).key0 = s.key0 := rfl
@[simp] theorem writeKey2_key1 (v : Word) (s : State) : (writeKey 2 v s).key1 = s.key1 := rfl
@[simp] theorem writeKey2_key2 (v : Word) (s : State) : (writeKey 2 v s).key2 = v := rfl
@[simp] theorem writeKey2_table (v : Word) (s : State) : (writeKey 2 v s).table = s.table := rfl
@[simp] theorem writeKey2_tvalid (v : Word) (s : State) : (writeKey 2 v s).tvalid = s.tvalid := rfl
@[simp] theorem writeKey2_kvalid (v : Word) (s : State) : (writeKey 2 v s).kvalid = s.kvalid := rfl
@[simp] theorem writeKey2_pending (v : Word) (s : State) : (writeKey 2 v s).pending = s.pending := rfl
@[simp] theorem writeKey2_responses (v : Word) (s : State) : (writeKey 2 v s).responses = s.responses := rfl
@[simp] theorem writeKey2_hiddenCount (v : Word) (s : State) : (writeKey 2 v s).hiddenCount = s.hiddenCount := rfl

@[simp] theorem buildTable_params (s : State) : (buildTable s).params = s.params := rfl
@[simp] theorem buildTable_key0 (s : State) : (buildTable s).key0 = s.key0 := rfl
@[simp] theorem buildTable_key1 (s : State) : (buildTable s).key1 = s.key1 := rfl
@[simp] theorem buildTable_key2 (s : State) : (buildTable s).key2 = s.key2 := rfl
@[simp] theorem buildTable_table (s : State) : (buildTable s).table = fillTable s.table := rfl
@[simp] theorem buildTable_tvalid (s : State) : (buildTable s).tvalid = true := rfl
@[simp] theorem buildTable_kvalid (s : State) : (buildTable s).kvalid = s.kvalid := rfl
@[simp] theorem buildTable_pending (s : State) : (buildTable s).pending = s.pending := rfl
@[simp] theorem buildTable_responses (s : State) : (buildTable s).responses = s.responses := rfl
@[simp] theorem buildTable_hiddenCount (s : State) : (buildTable s).hiddenCount = s.hiddenCount := rfl

@[simp] theorem loadInitialKeys_params (s : State) : (loadInitialKeys s).params = s.params := rfl
@[simp] theorem loadInitialKeys_key0 (s : State) : (loadInitialKeys s).key0 = Config.key0Init := rfl
@[simp] theorem loadInitialKeys_key1 (s : State) : (loadInitialKeys s).key1 = Config.key1Init := rfl
@[simp] theorem loadInitialKeys_key2 (s : State) : (loadInitialKeys s).key2 = Config.key2Init := rfl
@[simp] theorem loadInitialKeys_table (s : State) : (loadInitialKeys s).table = s.table := rfl
@[simp] theorem loadInitialKeys_tvalid (s : State) : (loadInitialKeys s).tvalid = s.tvalid := rfl
@[simp] theorem loadInitialKeys_kvalid (s : State) : (loadInitialKeys s).kvalid = true := rfl
@[simp] theorem loadInitialKeys_pending (s : State) : (loadInitialKeys s).pending = s.pending := rfl
@[simp] theorem loadInitialKeys_responses (s : State) : (loadInitialKeys s).responses = s.responses := rfl
@[simp] theorem loadInitialKeys_hiddenCount (s : State) : (loadInitialKeys s).hiddenCount = s.hiddenCount := rfl

@[simp] theorem resetBlock_params (s : State) : (resetBlock s).params = s.params := rfl
@[simp] theorem resetBlock_key0 (s : State) : (resetBlock s).key0 = Config.hiddenBits s.hiddenCount := rfl
@[simp] theorem resetBlock_key1 (s : State) : (resetBlock s).key1 = Config.hiddenBits (s.hiddenCount + 1) := rfl
@[simp] theorem resetBlock_key2 (s : State) : (resetBlock s).key2 = Config.hiddenBits (s.hiddenCount + 2) := rfl
@[simp] theorem resetBlock_table (s : State) : (resetBlock s).table = if s.params.tablePrebuilt then fillTable [] else [] := rfl
@[simp] theorem resetBlock_tvalid (s : State) : (resetBlock s).tvalid = s.params.tablePrebuilt := rfl
@[simp] theorem resetBlock_kvalid (s : State) : (resetBlock s).kvalid = false := rfl
@[simp] theorem resetBlock_pending (s : State) : (resetBlock s).pending = s.pending := rfl
@[simp] theorem resetBlock_responses (s : State) : (resetBlock s).responses = s.responses := rfl
@[simp] theorem resetBlock_hiddenCount (s : State) : (resetBlock s).hiddenCount = s.hiddenCount + 3 := rfl

@[simp] theorem readKey_0 (s : State) : readKey 0 s = s.key0 := rfl
@[simp] theorem readKey_1 (s : State) : readKey 1 s = s.key1 := rfl
@[simp] theorem readKey_2 (s : State) : readKey 2 s = s.key2 := rfl

end Sys2Proof.Machine
end

