-- ==== Sys2Proof/Laws/Table.lean ====
section
/-! SUPPORT. The laws of the table memory: a read after a write, the canonical form, and what the builder leaves
(20_memory.md R40, R48; 41_crc_table.md R84, R86). -/

namespace Sys2Proof.Machine

/-- A lookup after an insertion. -/
theorem Memory.lookup_insert (m : Memory) (i j : Nat) (v : Word) :
    (m.insert i v).lookup j = if j = i then some v else m.lookup j := by
  induction m with
  | nil => simp [Memory.insert, Memory.lookup]
  | cons c rest ih =>
    obtain ⟨k, u⟩ := c
    simp only [Memory.insert]
    split_ifs with hlt heq hj hj hj
    all_goals simp_all [Memory.lookup]

/-- The keys of an insertion. -/
theorem Memory.mem_insert {m : Memory} {i : Nat} {v : Word} {c : Nat × Word} (h : c ∈ m.insert i v) :
    c = (i, v) ∨ c ∈ m := by
  induction m with
  | nil => simpa [Memory.insert] using h
  | cons d rest ih =>
    obtain ⟨k, u⟩ := d
    simp only [Memory.insert] at h
    split_ifs at h with hlt heq
    · simpa using h
    · simp only [List.mem_cons] at h ⊢
      tauto
    · simp only [List.mem_cons] at h ⊢
      rcases h with h | h
      · exact .inr (.inl h)
      · exact (ih h).imp id .inr

/-- An insertion below 256 keeps the canonical form. -/
theorem Memory.insert_wf {m : Memory} (hm : m.wf) {i : Nat} (hi : i < Config.tableEntries) (v : Word) :
    (m.insert i v).wf := by
  refine ⟨?_, fun c hc => ?_⟩
  · obtain ⟨hs, -⟩ := hm
    induction m with
    | nil => simp [Memory.insert]
    | cons d rest ih =>
      obtain ⟨k, u⟩ := d
      rw [List.map_cons, List.pairwise_cons] at hs
      simp only [Memory.insert]
      split_ifs with hlt heq
      · rw [List.map_cons, List.pairwise_cons]
        refine ⟨fun a ha => ?_, by rw [List.map_cons, List.pairwise_cons]; exact hs⟩
        rcases List.mem_cons.1 ha with rfl | ha
        · exact hlt
        · exact hlt.trans (hs.1 a ha)
      · subst heq
        rw [List.map_cons, List.pairwise_cons]
        exact hs
      · rw [List.map_cons, List.pairwise_cons]
        refine ⟨fun a ha => ?_, ih hs.2⟩
        obtain ⟨c, hc, rfl⟩ := List.mem_map.1 ha
        rcases Memory.mem_insert hc with rfl | hc
        · simp only; omega
        · exact hs.1 _ (List.mem_map_of_mem hc)
  · rcases Memory.mem_insert hc with rfl | hc
    · exact hi
    · exact hm.2 c hc

/-- A read of an entry after a write of one. -/
theorem memRead_memWrite (m : Memory) (i j : Byte) (v : Word) :
    memRead (memWrite m i v) j = if j = i then some v else memRead m j := by
  simp [memRead, memWrite, Memory.lookup_insert, BitVec.toNat_inj]

/-- A write keeps the canonical form. -/
theorem memWrite_wf {m : Memory} (hm : m.wf) (i : Byte) (v : Word) : (memWrite m i v).wf :=
  Memory.insert_wf hm (by simpa [Config.tableEntries] using i.isLt) v

/-- A list of the builder's writes: each index in it holds its entry, every other index what it held. -/
theorem memRead_foldl_memWrite (is : List Byte) (m : Memory) (j : Byte) :
    memRead (is.foldl (fun t i => memWrite t i (crcEntry i)) m) j
      = if j ∈ is then some (crcEntry j) else memRead m j := by
  induction is generalizing m with
  | nil => simp
  | cons i is ih =>
    rw [List.foldl_cons, ih, memRead_memWrite]
    by_cases h : j = i <;> simp [h]

/-- The builder visits every index. -/
theorem mem_tableIndices (i : Byte) : i ∈ tableIndices := by
  have h : ∃ n, n ∈ List.range Config.tableEntries ∧ BitVec.ofNat 8 n = i := by
    refine ⟨i.toNat, ?_, by simp⟩
    rw [List.mem_range]
    exact i.isLt
  unfold tableIndices
  exact List.mem_map.2 h

/-- What the builder leaves, whatever was there. -/
theorem fillTable_holdsT (m : Memory) : TableHoldsT (fillTable m) := fun i => by
  unfold fillTable
  exact (memRead_foldl_memWrite tableIndices m i).trans (if_pos (mem_tableIndices i))

/-- The builder keeps the canonical form. -/
theorem fillTable_wf {m : Memory} (hm : m.wf) : (fillTable m).wf := by
  unfold fillTable
  generalize tableIndices = is
  induction is generalizing m with
  | nil => exact hm
  | cons i is ih => exact ih (memWrite_wf hm i _)

/-- The empty memory is in canonical form. -/
theorem nil_wf : Memory.wf [] := ⟨List.Pairwise.nil, fun _ h => absurd h (by simp)⟩

/-- A key not above the first of a rising list is not found in the rest. -/
theorem Memory.lookup_eq_none {m : Memory} {i : Nat} (h : ∀ k ∈ m.map Prod.fst, i < k) : m.lookup i = none := by
  induction m with
  | nil => rfl
  | cons c rest ih =>
    obtain ⟨k, u⟩ := c
    simp only [List.map_cons, List.forall_mem_cons] at h
    rw [Memory.lookup, if_neg h.1.ne, ih h.2]

/-- Equal memories are equal data: two canonical memories that read alike everywhere are one list. -/
theorem Memory.eq_of_lookup {m n : Memory} (hm : (m.map Prod.fst).Pairwise (· < ·))
    (hn : (n.map Prod.fst).Pairwise (· < ·)) (h : ∀ i, m.lookup i = n.lookup i) : m = n := by
  induction m generalizing n with
  | nil =>
    cases n with
    | nil => rfl
    | cons c rest => simpa [Memory.lookup] using h c.1
  | cons c rest ih =>
    cases n with
    | nil => simpa [Memory.lookup] using h c.1
    | cons d rest' =>
      obtain ⟨k, u⟩ := c
      obtain ⟨k', u'⟩ := d
      rw [List.map_cons, List.pairwise_cons] at hm hn
      have hk : k = k' := by
        rcases Nat.lt_trichotomy k k' with hlt | heq | hgt
        · have := h k
          rw [Memory.lookup, if_pos rfl, Memory.lookup, if_neg hlt.ne,
            Memory.lookup_eq_none fun a ha => hlt.trans (hn.1 a ha)] at this
          exact absurd this (by simp)
        · exact heq
        · have := h k'
          rw [Memory.lookup, if_neg hgt.ne, Memory.lookup_eq_none fun a ha => hgt.trans (hm.1 a ha),
            Memory.lookup, if_pos rfl] at this
          exact absurd this (by simp)
      subst hk
      have hu : u = u' := by simpa [Memory.lookup] using h k
      subst hu
      congr 1
      refine ih hm.2 hn.2 fun i => ?_
      have hi := h i
      rw [Memory.lookup, Memory.lookup] at hi
      by_cases hik : i = k
      · subst hik
        rw [Memory.lookup_eq_none hm.1, Memory.lookup_eq_none hn.1]
      · rwa [if_neg hik, if_neg hik] at hi

/-- An index of 256 or more is not listed in a canonical memory. -/
theorem Memory.lookup_of_ge {m : Memory} (hm : m.wf) {i : Nat} (hi : Config.tableEntries ≤ i) : m.lookup i = none := by
  obtain ⟨-, hb⟩ := hm
  induction m with
  | nil => rfl
  | cons c rest ih =>
    obtain ⟨k, u⟩ := c
    have hk : k < Config.tableEntries := hb (k, u) (List.mem_cons_self ..)
    rw [Memory.lookup, if_neg (by omega), ih fun c hc => hb c (List.mem_cons_of_mem _ hc)]

/-- A canonical memory that holds `T` is the built table: its contents are never open (10_state.md R31). -/
theorem eq_of_holdsT {m n : Memory} (hm : m.wf) (hn : n.wf) (h : TableHoldsT m) (h' : TableHoldsT n) : m = n := by
  refine Memory.eq_of_lookup hm.1 hn.1 fun i => ?_
  by_cases hi : i < 256
  · have e := (h (BitVec.ofNat 8 i)).trans (h' (BitVec.ofNat 8 i)).symm
    simpa [memRead, Nat.mod_eq_of_lt hi] using e
  · have hge : Config.tableEntries ≤ i := by simp only [Config.tableEntries]; omega
    rw [Memory.lookup_of_ge hm hge, Memory.lookup_of_ge hn hge]

end Sys2Proof.Machine
end

