-- ==== Sys2Proof/Laws/Engine.lean ====
section
/-! SUPPORT. What the shared operations of the cipher engine can do, said once each (42_cipher_engine.md). -/

namespace Sys2Proof.Machine

/-- With the table built, `crc32_step` is the step against the constant table. -/
theorem crc32Step_of_holdsT {m : Memory} (h : TableHoldsT m) (byte : Byte) (crc : Word) :
    crc32Step m byte crc = some (crcStep byte crc) := by
  simp only [crc32Step, h (lowByte (crc ^^^ zext32 byte)), crcStep]

/-- With the table built, `update_keys` advances the CipherState and writes nothing else. -/
theorem updateKeys_of_holdsT {s : State} (h : TableHoldsT s.table) (byte : Byte) :
    updateKeys byte s = some { s with
      key0 := (advance (keysOf s) byte).k0
      key1 := (advance (keysOf s) byte).k1
      key2 := (advance (keysOf s) byte).k2 } := by
  unfold updateKeys
  rw [crc32Step_of_holdsT h]
  dsimp only [readKey_0, readKey_1, readKey_2, writeKey0_key0, writeKey0_key1, writeKey0_key2, writeKey0_table,
    writeKey1_key0, writeKey1_key1, writeKey1_key2, writeKey1_table]
  rw [crc32Step_of_holdsT h]
  rfl

/-- Whatever the table holds, `update_keys` writes only the three key registers. -/
theorem updateKeys_eq_some {s t : State} {byte : Byte} (h : updateKeys byte s = some t) :
    t = { s with key0 := t.key0, key1 := t.key1, key2 := t.key2 } := by
  unfold updateKeys at h
  split at h
  · cases h
  · dsimp only at h
    split at h
    · cases h
    · cases h
      rfl

/-- The check of the seven key-reading commands passes. -/
theorem requireKeys_of_kvalid {s : State} (h : s.kvalid = true) (go : Result) : requireKeys s go = go := by
  simp [requireKeys, h]

/-- The check of the seven key-reading commands fails (60_exceptions.md R142). -/
theorem requireKeys_of_not_kvalid {s : State} (h : s.kvalid = false) (go : Result) :
    requireKeys s go = .next (raise .noKey s) := by
  simp [requireKeys, h]

/-- With the table built, an update and its response. -/
theorem updateAndRespond_of_holdsT {s : State} (h : TableHoldsT s.table) (byte : Byte) (dat : Word) :
    updateAndRespond byte dat s = .next { s with
      key0 := (advance (keysOf s) byte).k0
      key1 := (advance (keysOf s) byte).k1
      key2 := (advance (keysOf s) byte).k2
      responses := s.responses ++ [⟨.ok, dat⟩] } := by
  simp [updateAndRespond, updateKeys_of_holdsT h, respond]

/-- An update and its response write the key registers and the response, and nothing else. -/
theorem updateAndRespond_eq_next {s t : State} {byte : Byte} {dat : Word} (h : updateAndRespond byte dat s = .next t) :
    t = { s with key0 := t.key0, key1 := t.key1, key2 := t.key2, responses := s.responses ++ [⟨.ok, dat⟩] } := by
  unfold updateAndRespond at h
  split at h
  · rename_i u hu
    cases h
    rw [updateKeys_eq_some hu]
    rfl
  · cases h

/-- The first action of a non-empty list. -/
@[simp] theorem takeAction_cons (s : State) (a : HostAction) (rest : List HostAction) :
    takeAction { s with pending := a :: rest } = some (a, { s with pending := rest }) := rfl

/-- The first action, where the pending list is known. -/
theorem takeAction_of_pending {s : State} {a : HostAction} {rest : List HostAction} (h : s.pending = a :: rest) :
    takeAction s = some (a, { s with pending := rest }) := by
  simp [takeAction, h]

/-- With nothing pending the block waits. -/
theorem takeAction_of_idle {s : State} (h : s.pending = []) : takeAction s = none := by
  simp [takeAction, h]

/-- A run of no actions. -/
@[simp] theorem run_zero (s : State) : Host.Core.run Sys2Proof.core 0 s = .next s := rfl

/-- A run of any machine that goes on after its first step. -/
theorem core_run_succ (M : Host.Core) {s t : M.State} (n : Nat) (h : M.step s = .next t) :
    M.run (n + 1) s = M.run n t := by
  simp only [Host.Core.run, h]

/-- A run that goes on after its first step. -/
theorem run_succ {s t : State} (n : Nat) (h : step s = .next t) :
    Host.Core.run Sys2Proof.core (n + 1) s = Host.Core.run Sys2Proof.core n t :=
  core_run_succ Sys2Proof.core n h

end Sys2Proof.Machine
end

