-- ==== Sys2Proof/Laws/Exec.lean ====
section
/-! SUPPORT. What one command can do, said once: the inversion lemma of `exec`, from which a frame or an invariant follows
by four short cases. -/

namespace Sys2Proof.Machine

/-- The three key registers set to given values. -/
def withKeys (k : Keys) (s : State) : State := { s with key0 := k.k0, key1 := k.k1, key2 := k.k2 }

/-- What is left of a command that answers the next state. -/
inductive Effect (i : Instr) (s : State) : State → Prop
  /-- An answer and nothing else: a read, or an error response. -/
  | answered (r : Response) : Effect i s { s with responses := s.responses ++ [r] }
  /-- The CipherState advanced: `KUPD`, `DEC`, `ENC` in a ready block. -/
  | advanced (k : Keys) (d : Word) (ready : s.kvalid = true) (which : ∃ b, i = .kupd b ∨ i = .dec b ∨ i = .enc b) :
      Effect i s { withKeys k s with responses := s.responses ++ [⟨.ok, d⟩] }
  /-- `TBUILD`. -/
  | built (which : i = .tbuild) : Effect i s (respond .ok 0 (buildTable s))
  /-- `KINIT`. -/
  | initialised (which : i = .kinit) : Effect i s (respond .ok 0 (loadInitialKeys (if s.tvalid then s else buildTable s)))

/-- A guarded answer. -/
theorem effect_of_guarded_answer {i : Instr} {s t : State} {r : Response}
    (h : requireKeys s (.next { s with responses := s.responses ++ [r] }) = .next t) : Effect i s t := by
  unfold requireKeys at h
  split at h <;> cases h <;> exact .answered _

/-- A guarded update. -/
theorem effect_of_guarded_update {i : Instr} {s t : State} {b : Byte} {d : Word}
    (which : ∃ b, i = .kupd b ∨ i = .dec b ∨ i = .enc b)
    (h : requireKeys s (updateAndRespond b d s) = .next t) : Effect i s t := by
  by_cases hk : s.kvalid = true
  · rw [requireKeys_of_kvalid hk] at h
    rw [updateAndRespond_eq_next h]
    exact .advanced ⟨t.key0, t.key1, t.key2⟩ d hk which
  · rw [requireKeys_of_not_kvalid (by simpa using hk)] at h
    cases h
    exact .answered _

/-- Everything a command that answers a next state can have done. -/
theorem effect_of_exec {i : Instr} {s t : State} (h : exec i s = .next t) : Effect i s t := by
  cases i with
  | stat => cases h; exact .answered _
  | tbuild => cases h; exact .built rfl
  | tread idx =>
    simp only [exec, execTread] at h
    split at h
    · split at h <;> cases h
      exact .answered _
    · cases h
      exact .answered _
  | kinit => cases h; exact .initialised rfl
  | kupd b => exact effect_of_guarded_update ⟨b, .inl rfl⟩ h
  | kstrm => exact effect_of_guarded_answer h
  | kread0 => exact effect_of_guarded_answer h
  | kread1 => exact effect_of_guarded_answer h
  | kread2 => exact effect_of_guarded_answer h
  | dec c => exact effect_of_guarded_update ⟨c, .inr (.inl rfl)⟩ h
  | enc p => exact effect_of_guarded_update ⟨p, .inr (.inr rfl)⟩ h

/-- The invariant speaks only of the parameter, the table and the two flags. -/
theorem BlockInv.congr {s t : State} (h : BlockInv s) (hp : t.params = s.params) (ht : t.table = s.table)
    (hv : t.tvalid = s.tvalid) (hk : t.kvalid = s.kvalid) : BlockInv t where
  wf := ht ▸ h.wf
  keysNeedTable := by rw [hk, hv]; exact h.keysNeedTable
  built := by rw [hv, ht]; exact h.built
  unbuilt := by rw [hv, ht]; exact h.unbuilt
  prebuilt := by rw [hp, hv]; exact h.prebuilt

/-- `update_keys` does not look at the host's pending actions. -/
theorem updateKeys_ignores_pending (byte : Byte) (s : State) (rest : List HostAction) :
    updateKeys byte { s with pending := rest } = (updateKeys byte s).map fun t => { t with pending := rest } := by
  unfold updateKeys
  dsimp only [readKey_0, readKey_1, readKey_2, writeKey0_key0, writeKey0_key1, writeKey0_key2, writeKey0_table,
    writeKey1_key0, writeKey1_key1, writeKey1_key2, writeKey1_table]
  cases crc32Step s.table byte s.key0 with
  | none => rfl
  | some k0 =>
    dsimp only
    cases crc32Step s.table (highByte (mulAdd (s.key1 + zext32 (lowByte k0)))) s.key2 with
    | none => rfl
    | some k2 => rfl

/-- A command does not look at what the host does next: with other actions pending it does the same. -/
theorem exec_ignores_pending {i : Instr} {s t : State} (rest : List HostAction) (h : exec i s = .next t) :
    exec i { s with pending := rest } = .next { t with pending := rest } := by
  have update : ∀ b d t, updateAndRespond b d s = .next t →
      updateAndRespond b d { s with pending := rest } = .next { t with pending := rest } := by
    intro b d t h
    unfold updateAndRespond at h ⊢
    rw [updateKeys_ignores_pending]
    split at h
    · rename_i u hu
      cases h
      rw [hu]
      rfl
    · cases h
  have guarded : ∀ go go' t, requireKeys s go = .next t → (∀ t, go = .next t → go' = .next { t with pending := rest }) →
      requireKeys { s with pending := rest } go' = .next { t with pending := rest } := by
    intro go go' t h hg
    unfold requireKeys at h ⊢
    dsimp only
    split at h
    · rw [if_pos (by assumption)]
      exact hg _ h
    · rw [if_neg (by assumption)]
      cases h
      rfl
  have read : ∀ v t, Host.Outcome.next (respond .ok v s) = (.next t : Result) →
      Host.Outcome.next (respond .ok v { s with pending := rest }) = (.next { t with pending := rest } : Result) := by
    intro v t h
    cases h
    rfl
  cases i with
  | stat => cases h; rfl
  | tbuild => cases h; rfl
  | kinit => cases h; cases ht : s.tvalid <;> simp [exec, execKinit, ht, respond, loadInitialKeys, buildTable]
  | tread idx =>
    simp only [exec, execTread] at h ⊢
    split at h
    · rw [if_pos (by assumption)]
      split at h <;> cases h
      rfl
    · rw [if_neg (by assumption)]
      cases h
      rfl
  | kupd b => exact guarded _ _ _ h (update _ _)
  | kstrm => exact guarded _ _ _ h (read _)
  | kread0 => exact guarded _ _ _ h (read _)
  | kread1 => exact guarded _ _ _ h (read _)
  | kread2 => exact guarded _ _ _ h (read _)
  | dec c => exact guarded _ _ _ h (update _ _)
  | enc p => exact guarded _ _ _ h (update _ _)

end Sys2Proof.Machine
end

