-- ==== Sys2Proof/Laws/PerInstr.lean ====
section
/-! SUPPORT. Statements about every command as a term, one lemma per constructor (LAWS.json). -/

namespace Sys2Proof.Laws.SelectedByOwnRow

open Sys2Proof

/-- Exactly one row of the opcode map selects the command's word, and it is the row of the command's own mnemonic
(30_encoding.md R63). -/
def Statement (i : Instr) : Prop := (opcodeMap.filter (·.selects (encode i))).map OpcodeRow.mnemonic = [i.mnemonic]

/-- The rows whose condition a word of the given opcode meets, whatever its operand (30_encoding.md R63). -/
theorem rows_of_operand_opcodes : ∀ b : Byte,
    (opcodeMap.filter (·.selects (joinFields 0x11 b))).map OpcodeRow.mnemonic = ["TREAD"] ∧
    (opcodeMap.filter (·.selects (joinFields 0x21 b))).map OpcodeRow.mnemonic = ["KUPD"] ∧
    (opcodeMap.filter (·.selects (joinFields 0x30 b))).map OpcodeRow.mnemonic = ["DEC"] ∧
    (opcodeMap.filter (·.selects (joinFields 0x31 b))).map OpcodeRow.mnemonic = ["ENC"] := by
  decide +kernel

theorem stat : Statement .stat := by unfold Statement; decide
theorem tbuild : Statement .tbuild := by unfold Statement; decide
theorem tread (idx : Byte) : Statement (.tread idx) := (rows_of_operand_opcodes idx).1
theorem kinit : Statement .kinit := by unfold Statement; decide
theorem kupd (byte : Byte) : Statement (.kupd byte) := (rows_of_operand_opcodes byte).2.1
theorem kstrm : Statement .kstrm := by unfold Statement; decide
theorem kread0 : Statement .kread0 := by unfold Statement; decide
theorem kread1 : Statement .kread1 := by unfold Statement; decide
theorem kread2 : Statement .kread2 := by unfold Statement; decide
theorem dec (c : Byte) : Statement (.dec c) := (rows_of_operand_opcodes c).2.2.1
theorem enc (p : Byte) : Statement (.enc p) := (rows_of_operand_opcodes p).2.2.2

end Sys2Proof.Laws.SelectedByOwnRow
end

