-- ==== Sys2Proof/Tests/Slice0.lean ====
section
/-! SUPPORT. Tests against the worked examples and vectors of spec/ (each names its section), the well-formedness smoke
tests, and for every statement with hypotheses a witness that meets them all. -/

namespace Sys2Proof.Tests

open Sys2Proof Sys2Proof.Machine

/-! ### Small states (95_test_vectors.md section 2.7) -/

/-- "table only". -/
def tableOnly : State := buildTable State.reset

/-- "ready". -/
def ready : State := loadInitialKeys tableOnly

/-- A ready block with other keys. -/
def readyWith (k0 k1 k2 : Word) : State := { ready with key0 := k0, key1 := k1, key2 := k2 }

/-- The state after reset with `TABLE_PREBUILT == true`. -/
def prebuilt : State := { State.reset with params := ⟨true⟩, table := fillTable [], tvalid := true }

/-- A block with one action pending. -/
def presented (a : HostAction) (s : State) : State := { s with pending := [a] }

/-- What an outcome shows: both flags, the keys and the responses. -/
def shown : Result → Option (Bool × Bool × Keys × List Response)
  | .next t => some (t.tvalid, t.kvalid, keysOf t, t.responses)
  | .fault _ => none
  | .refused _ => none

/-- An outcome that shows `KVALID` is a next state. -/
theorem exists_of_shown {o : Result} {b : Bool} (h : (shown o).map (·.2.1) = some b) :
    ∃ t, o = .next t ∧ t.kvalid = b := by
  cases o with
  | next t => exact ⟨t, rfl, by simpa [shown] using h⟩
  | fault _ => simp [shown] at h
  | refused _ => simp [shown] at h

/-- The keys of the state after reset. -/
def noKeys : Keys := ⟨0, 0, 0⟩

/-! ### Well-formedness smoke tests: one ill-formed word for each check -/

/-- R64: a non-zero operand on a command without one. -/
theorem test_operand_on_kinit_is_ill_formed : legalWord 0x2001 = false := by decide
/-- R65: an unassigned opcode. -/
theorem test_unassigned_opcode_is_ill_formed : legalWord 0x2600 = false := by decide
/-- The decoder names the first. -/
theorem test_decode_operand_on_kinit : decode 0x2001 = .error .operandNotZero := by decide
/-- The decoder names the second. -/
theorem test_decode_unassigned_opcode : decode 0x2600 = .error .unassignedOpcode := by decide

/-! ### Decoding: words written out from 30_encoding.md R63, every constructor -/

theorem test_decode_stat : decode 0b0000000100000000#16 = .ok .stat := by decide
theorem test_decode_tbuild : decode 0b0001000000000000#16 = .ok .tbuild := by decide
theorem test_decode_tread : decode 0b0001000110000001#16 = .ok (.tread 0x81) := by decide
theorem test_decode_kinit : decode 0b0010000000000000#16 = .ok .kinit := by decide
theorem test_decode_kupd : decode 0b0010000101110100#16 = .ok (.kupd 0x74) := by decide
theorem test_decode_kstrm : decode 0b0010001000000000#16 = .ok .kstrm := by decide
theorem test_decode_kread0 : decode 0b0010001100000000#16 = .ok .kread0 := by decide
theorem test_decode_kread1 : decode 0b0010010000000000#16 = .ok .kread1 := by decide
theorem test_decode_kread2 : decode 0b0010010100000000#16 = .ok .kread2 := by decide
theorem test_decode_dec : decode 0b0011000010010111#16 = .ok (.dec 0x97) := by decide
theorem test_decode_enc : decode 0b0011000101001000#16 = .ok (.enc 0x48) := by decide
/-- R68's examples. -/
theorem test_encode_kupd_t : encode (.kupd 0x74) = 0x2174 := by decide
theorem test_decode_table_word : decodeTableWord 16 0x31AB = some (.enc 0xAB) := by decide

/-! ### The table (95_test_vectors.md sections 2.1 to 2.3) -/

theorem test_crcRound_keeps_bit31 : crcRound 0x80000001 = 0xADB88320 := by decide
theorem test_crcEntry_1 : crcEntry 0x01 = 0x77073096 := by decide +kernel
theorem test_crcEntry_0xFF : crcEntry 0xFF = 0x2D02EF8D := by decide +kernel
/-- The XOR and the sum of all 256 entries. -/
theorem test_table_checks : (tableIndices.map crcEntry).foldl (· ^^^ ·) 0 = 0 ∧
    (tableIndices.map crcEntry).foldl (· + ·) 0 = 0xFFFFFF80 := by decide +kernel
theorem test_crc32Step : crc32Step ready.table 0x74 0x12345678 = some 0x09A4787D := by decide +kernel
theorem test_crc32Step_mask : crc32Step ready.table 0x00 0xFFFFFFFF = some 0x2DFD1072 := by decide +kernel
/-- 41_crc_table.md R84's example, and 42_cipher_engine.md R101's corner. -/
theorem test_keystream_corner : keystream (readyWith 0 0 0x000000FF) = 0xFD := by decide

/-! ### The commands (95_test_vectors.md section 2.7, rules' worked examples) -/

theorem test_stat_reset : shown (exec .stat State.reset) = some (false, false, noKeys, [⟨.ok, 0x00000000⟩]) := by decide
theorem test_stat_ready : (shown (exec .stat ready)).map (·.2.2.2) = some [⟨.ok, 0x00000003⟩] := by decide +kernel
theorem test_tbuild_reset : shown (exec .tbuild State.reset) = some (true, false, noKeys, [⟨.ok, 0⟩]) := by decide +kernel
theorem test_tread_unbuilt :
    shown (exec (.tread 0x01) State.reset) = some (false, false, noKeys, [⟨.noTable, 0⟩]) := by decide
theorem test_tread_built :
    shown (exec (.tread 0xFF) tableOnly) = some (true, false, noKeys, [⟨.ok, 0x2D02EF8D⟩]) := by decide +kernel
theorem test_kinit_reset : shown (exec .kinit State.reset)
    = some (true, true, ⟨0x12345678, 0x23456789, 0x34567890⟩, [⟨.ok, 0⟩]) := by decide +kernel
theorem test_kupd_t : shown (exec (.kupd 0x74) ready)
    = some (true, true, ⟨0x09A4787D, 0xEA2E201F, 0xB0E4CE5A⟩, [⟨.ok, 0⟩]) := by decide +kernel
/-- A carry out of bit 31 in step 2 (section 2.4, row 2). -/
theorem test_kupd_carry : shown (exec (.kupd 0xFF) (readyWith 0xFFFFFFFF 0xFFFFFFFF 0xFFFFFFFF))
    = some (true, true, ⟨0x00FFFFFF, 0xF872FCF7, 0x9E9B6A5C⟩, [⟨.ok, 0⟩]) := by decide +kernel
theorem test_kstrm_ready : (shown (exec .kstrm ready)).map (·.2.2.2) = some [⟨.ok, 0x000000AB⟩] := by decide +kernel
theorem test_kstrm_no_key : (shown (exec .kstrm tableOnly)).map (·.2.2.2) = some [⟨.noKey, 0⟩] := by decide +kernel
theorem test_kread0_ready : (shown (exec .kread0 ready)).map (·.2.2.2) = some [⟨.ok, 0x12345678⟩] := by decide +kernel
theorem test_kread1_ready : (shown (exec .kread1 ready)).map (·.2.2.2) = some [⟨.ok, 0x23456789⟩] := by decide +kernel
theorem test_kread2_ready : (shown (exec .kread2 ready)).map (·.2.2.2) = some [⟨.ok, 0x34567890⟩] := by decide +kernel
/-- Section 2.8: same output, different driving byte. -/
theorem test_dec_zero : shown (exec (.dec 0x00) ready)
    = some (true, true, ⟨0x1FC8B738, 0xBFE28AC6, 0xABE56B21⟩, [⟨.ok, 0x000000AB⟩]) := by decide +kernel
theorem test_dec_EA : shown (exec (.dec 0xEA) ready)
    = some (true, true, ⟨0x5F17BC5E, 0xF1262384, 0x3A8107B6⟩, [⟨.ok, 0x00000041⟩]) := by decide +kernel
theorem test_enc_zero : shown (exec (.enc 0x00) ready)
    = some (true, true, ⟨0x5ECCCD58, 0xC0F30B66, 0x6B5F078C⟩, [⟨.ok, 0x000000AB⟩]) := by decide +kernel
theorem test_enc_41 : shown (exec (.enc 0x41) ready)
    = some (true, true, ⟨0x5F17BC5E, 0xF1262384, 0x3A8107B6⟩, [⟨.ok, 0x000000EA⟩]) := by decide +kernel

/-! ### Steps, reset, responses -/

/-- Section 3, P5 line 12: illegal before `E_NOKEY`. -/
theorem test_step_illegal :
    shown (step (presented (.command 0x2001) State.reset)) = some (false, false, noKeys, [⟨.illegal, 0⟩]) := by decide
theorem test_withFetchWord_runs_next : shown (step (State.reset.withFetchWord 16 0x2000))
    = some (true, true, ⟨0x12345678, 0x23456789, 0x34567890⟩, [⟨.ok, 0⟩]) := by decide +kernel
/-- Section 3, P5 lines 23 to 25: reset makes the keys unreadable. -/
theorem test_reset_clears_kvalid : (shown (step (presented .reset ready))).map (fun o => (o.1, o.2.1))
    = some (false, false) := by decide +kernel
/-- The last program of section 3: with a prebuilt table `TREAD` answers straight after reset. -/
theorem test_prebuilt_tread :
    shown (exec (.tread 0x01) prebuilt) = some (true, false, noKeys, [⟨.ok, 0x77073096⟩]) := by decide +kernel
theorem test_response_word : Response.word ⟨.noTable, 0⟩ = 0x0300000000 := by decide

/-! ### The assembler (30_encoding.md R68, R69) -/

theorem test_line_char : assembleLine ['K', 'U', 'P', 'D', ' ', '\'', 't', '\''] = .ok [.command 0x2174] := by
  decide +kernel
theorem test_line_decimal : assembleLine ['D', 'E', 'C', ' ', '2', '5', '5', ' ', ';', 'x'] = .ok [.command 0x30FF] := by
  decide +kernel
theorem test_line_decimal_too_big : assembleLine ['D', 'E', 'C', ' ', '2', '5', '6'] = .error .badOperand := by
  decide +kernel
theorem test_line_hex : assembleLine ['T', 'R', 'E', 'A', 'D', ' ', '0', 'x', '0', '1'] = .ok [.command 0x1101] := by
  decide +kernel
theorem test_line_word : assembleLine ['.', 'w', 'o', 'r', 'd', ' ', '0', 'x', '2', '0', '0', '1'] = .ok [.command 0x2001] := by
  decide +kernel
theorem test_line_reset : assembleLine ['R', 'E', 'S', 'E', 'T'] = .ok [.reset] := by decide +kernel
theorem test_expand_new : expand (.newCipher [0x74, 0x65]) = [.kinit, .kupd 0x74, .kupd 0x65] := rfl

/-! ### The small states meet the invariant -/

theorem reset_inv : BlockInv State.reset :=
  ⟨nil_wf, by decide, fun h => absurd h (by decide), fun _ => rfl, by decide⟩

theorem tableOnly_inv : BlockInv tableOnly :=
  ⟨fillTable_wf nil_wf, fun _ => rfl, fun _ => fillTable_holdsT _, fun h => absurd h (by simp [tableOnly]), fun _ => rfl⟩

theorem ready_inv : BlockInv ready :=
  ⟨fillTable_wf nil_wf, fun _ => rfl, fun _ => fillTable_holdsT _, fun h => absurd h (by simp [ready, tableOnly]),
    fun _ => rfl⟩

theorem readyWith_inv (k0 k1 k2 : Word) : BlockInv (readyWith k0 k1 k2) := ready_inv.congr rfl rfl rfl rfl

theorem prebuilt_inv : BlockInv prebuilt :=
  ⟨fillTable_wf nil_wf, fun _ => rfl, fun _ => fillTable_holdsT _, fun h => absurd h (by simp [prebuilt]), fun _ => rfl⟩

/-- The response a command gives a ready block, with the state it leaves. -/
theorem ready_answers (i : Instr) (h : i ∈ ([.kupd 0x74, .dec 0xEA, .enc 0x41] : List Instr)) :
    ∃ t r, exec i ready = .next t ∧ t.responses = ready.responses ++ [r] := by
  have h' : ∀ b d, ∃ t r, requireKeys ready (updateAndRespond b d ready) = .next t ∧ t.responses = ready.responses ++ [r] :=
    fun b d => ⟨_, _, (requireKeys_of_kvalid rfl _).trans (updateAndRespond_of_holdsT (fillTable_holdsT _) b d), rfl⟩
  simp only [List.mem_cons, List.not_mem_nil, or_false] at h
  rcases h with rfl | rfl | rfl
  all_goals exact h' _ _

/-! ### Witnesses: for each statement with hypotheses, inputs that meet them all -/

theorem witness_EncodeOfDecodeIsTheWord : decode 0x2174 = .ok (.kupd 0x74) := by decide
theorem witness_WordDecodesWhenARowMatches :
    ⟨"KUPD", 0xFF00, 0x2100⟩ ∈ opcodeMap ∧ (0x21FF : CmdWord) &&& 0xFF00 = 0x2100 ∧ ⟨"ENC", 0xFF00, 0x3100⟩ ∈ opcodeMap ∧
      decode 0x31FF = .ok (.enc 0xFF) ∧ (Instr.enc 0xFF).mnemonic = "ENC" := by decide
theorem witness_NoWordMatchesTwoRows :
    ⟨"STAT", 0xFFFF, 0x0100⟩ ∈ opcodeMap ∧ (0x0100 : CmdWord) &&& 0xFFFF = 0x0100 := by decide
theorem witness_NoOperandCommandsRequireZeroOperand :
    Instr.stat ∈ ([.stat, .tbuild, .kinit, .kstrm, .kread0, .kread1, .kread2] : List Instr) ∧ (0 : Byte) = 0 ∧
      (1 : Byte) ≠ 0 ∧ (0xFF : Byte) ≠ 0 := by decide
theorem witness_CrcRoundBitByBit : (0 : Nat) < 32 ∧ (31 : Nat) < 32 := by decide
theorem witness_Crc32StepOnBuiltTable : BlockInv ready ∧ ready.tvalid = true := ⟨ready_inv, rfl⟩
theorem witness_UpdateKeysTakesFourSteps : BlockInv tableOnly ∧ tableOnly.tvalid = true := ⟨tableOnly_inv, rfl⟩
theorem witness_KeystreamDependsOnBits15To2 :
    (readyWith 0 0 0x34567890).key2.extractLsb' 2 14 = (readyWith 0 0 0x12347893).key2.extractLsb' 2 14 := by decide
theorem witness_CrcEntriesAreDistinct : crcEntry 0xFF = crcEntry 0xFF := rfl
theorem witness_StatAnswersTheFlags : BlockInv State.reset ∧ BlockInv tableOnly ∧ BlockInv ready :=
  ⟨reset_inv, tableOnly_inv, ready_inv⟩
theorem witness_RebuildChangesNothing : BlockInv tableOnly ∧ tableOnly.tvalid = true := ⟨tableOnly_inv, rfl⟩
theorem witness_TreadAnswersTheEntry :
    (BlockInv tableOnly ∧ tableOnly.tvalid = true) ∧ BlockInv State.reset ∧ State.reset.tvalid = false :=
  ⟨⟨tableOnly_inv, rfl⟩, reset_inv, rfl⟩
theorem witness_KinitLoadsTheConstants : ready.tvalid = true ∧ State.reset.tvalid = false := ⟨rfl, rfl⟩
theorem witness_KupdAdvancesTheKeys :
    (BlockInv ready ∧ ready.kvalid = true) ∧ BlockInv tableOnly ∧ tableOnly.kvalid = false :=
  ⟨⟨ready_inv, rfl⟩, tableOnly_inv, rfl⟩
theorem witness_KstrmAnswersTheKeystreamByte : ready.kvalid = true ∧ State.reset.kvalid = false := ⟨rfl, rfl⟩
theorem witness_KreadsAnswerTheirRegister : ready.kvalid = true ∧ State.reset.kvalid = false := ⟨rfl, rfl⟩
theorem witness_DecAdvancesWithRecoveredPlaintext :
    (BlockInv ready ∧ ready.kvalid = true) ∧ BlockInv State.reset ∧ State.reset.kvalid = false :=
  ⟨⟨ready_inv, rfl⟩, reset_inv, rfl⟩
theorem witness_EncAdvancesWithInputPlaintext :
    (BlockInv ready ∧ ready.kvalid = true) ∧ BlockInv State.reset ∧ State.reset.kvalid = false :=
  ⟨⟨ready_inv, rfl⟩, reset_inv, rfl⟩
theorem witness_DecUndoesEncByteByByte : BlockInv ready ∧ ready.kvalid = true ∧
    ∃ t r, exec (.enc 0x41) ready = .next t ∧ t.responses = ready.responses ++ [r] :=
  ⟨ready_inv, rfl, ready_answers _ (by decide)⟩
theorem witness_OutputMayEqualInput :
    (BlockInv (readyWith 0 0 0) ∧ (readyWith 0 0 0).kvalid = true ∧ (readyWith 0 0 0).key2.setWidth 16 = 0) ∧
      BlockInv (readyWith 0 0 0x1234FFFF) ∧ (readyWith 0 0 0x1234FFFF).key2.setWidth 16 = 0xFFFF :=
  ⟨⟨readyWith_inv .., rfl, by decide⟩, readyWith_inv .., by decide⟩
theorem witness_IllegalWordsAnswerIllegal :
    (∀ r ∈ opcodeMap, (0x2001 : CmdWord) &&& r.mask ≠ r.pattern) ∧
      (∃ r ∈ opcodeMap, (0x0100 : CmdWord) &&& r.mask = r.pattern) ∧
      ∃ t r, step (presented (.command 0x0100) ready) = .next t ∧ t.responses = ready.responses ++ [r] :=
  ⟨by decide, by decide, _, ⟨.ok, 3⟩, rfl, rfl⟩
theorem witness_KeyCommandsNeedKeys : State.reset.kvalid = false ∧
    Instr.kupd 0x74 ∈ ([.kupd 0x74, .kstrm, .dec 0x74, .enc 0x74, .kread0, .kread1, .kread2] : List Instr) := by decide
theorem witness_OnlyTreadRaisesNoTable : State.reset.tvalid = false ∧
    ∃ t r, exec (.tread 0) State.reset = .next t ∧ t.responses = State.reset.responses ++ [r] ∧ r.sts = .noTable :=
  ⟨rfl, _, ⟨.noTable, 0⟩, rfl, rfl, rfl⟩
theorem witness_ErrorsChangeNothing : (presented (.command 0x2300) State.reset).pending = [.command 0x2300] ∧
    ∃ t r, step (presented (.command 0x2300) State.reset) = .next t ∧ t.responses = [] ++ [r] ∧ r.sts ≠ .ok :=
  ⟨rfl, _, ⟨.noKey, 0⟩, rfl, rfl, by decide⟩
theorem witness_ReadyBlockAlwaysAnswersOk : BlockInv ready ∧ ready.kvalid = true ∧
    Instr.enc 0x41 ∈ ([.kupd 0x41, .kstrm, .dec 0x41, .enc 0x41] : List Instr) := ⟨ready_inv, rfl, by decide⟩
theorem witness_ReadOnlyCommandsFrame :
    Instr.stat ∈ ([.stat, .tread 0xFF, .kstrm, .kread0, .kread1, .kread2] : List Instr) ∧ ∃ t, exec .stat ready = .next t :=
  ⟨by decide, _, rfl⟩
theorem witness_KeyUpdatesFrame :
    Instr.dec 0xEA ∈ ([.kupd 0xEA, .dec 0xEA, .enc 0xEA] : List Instr) ∧ ∃ t, exec (.dec 0xEA) ready = .next t :=
  ⟨by decide, (ready_answers _ (by decide)).imp fun _ h => h.choose_spec.1⟩
theorem witness_BuildersFrame :
    (∃ t, exec .tbuild State.reset = .next t) ∧ ∃ t, exec .kinit tableOnly = .next t ∧ tableOnly.tvalid = true :=
  ⟨⟨_, rfl⟩, _, rfl, rfl⟩
theorem witness_KeysWrittenByFourCommands : ∃ t, exec (.kupd 0x74) ready = .next t :=
  (ready_answers _ (by decide)).imp fun _ h => h.choose_spec.1
theorem witness_CommandsNeverClearAFlag :
    (∃ t, exec .kinit State.reset = .next t ∧ State.reset.kvalid = false ∧ t.kvalid = true ∧ t.tvalid = true) ∧
      ∃ t, exec .stat ready = .next t ∧ ready.tvalid = true ∧ ready.kvalid = true :=
  ⟨⟨_, rfl, rfl, rfl, rfl⟩, _, rfl, rfl, rfl⟩
theorem witness_BuiltTableIsImmutable : BlockInv ready ∧ ready.tvalid = true ∧ ∃ t, exec .tbuild ready = .next t :=
  ⟨ready_inv, rfl, _, rfl⟩
theorem witness_StepRunsTheDecodedCommand :
    (presented (.command 0x2174) ready).pending = .command 0x2174 :: [] ∧ decode 0x2174 = .ok (.kupd 0x74) :=
  ⟨rfl, by decide⟩
theorem witness_IdleBlockWaits : State.reset.pending = [] := rfl
theorem witness_OneResponsePerCommand : BlockInv State.reset := reset_inv
theorem witness_ResetClearsTheFlags : (presented .reset ready).pending = [.reset] ∧
    (presented .reset ready).params.tablePrebuilt = false ∧ (presented .reset prebuilt).params.tablePrebuilt = true :=
  ⟨rfl, rfl, rfl⟩
theorem witness_ResetForgetsTheCommand : ∃ t, exec .kinit State.reset = .next t := ⟨_, rfl⟩
theorem witness_ResetWinsOverItsCommand : (presented (.resetDuring 0x2000) ready).pending = [.resetDuring 0x2000] ∧
    ∃ t, step (presented (.resetDuring 0x2000) ready) = .next t := ⟨rfl, _, rfl⟩
theorem witness_EveryStepKeepsInv : BlockInv (presented .reset ready) ∧ ∃ t, step (presented .reset ready) = .next t :=
  ⟨ready_inv.congr rfl rfl rfl rfl, _, rfl⟩
theorem witness_NoStepStops : BlockInv (presented (.command 0xFFFF) ready) := ready_inv.congr rfl rfl rfl rfl
theorem witness_KvalidImpliesTvalidInEveryRun :
    ∃ t, Host.Core.run core 2 { State.reset with params := ⟨true⟩, pending := [.reset, present .kinit] } = .next t ∧
      t.kvalid = true := by
  have h : (shown (Host.Core.run core 2
      { State.reset with params := ⟨true⟩, pending := [.reset, present .kinit] })).map (·.2.1) = some true := by
    decide +kernel
  exact exists_of_shown h
theorem witness_HiddenKeyBitsAreNeverSeen : SameVisible State.reset { State.reset with key2 := 0xFFFFFFFF } :=
  ⟨rfl, rfl, rfl, rfl, rfl, rfl, rfl, fun h => absurd h (by decide)⟩
theorem witness_BlocksAreIndependent : (0 : Nat) ≠ 1 ∧
    ((stepBlock [presented (.command 0x2000) State.reset, presented .reset ready] 0).bind
      fun b => stepBlock b 1).isSome = true := by decide +kernel
theorem witness_KeysAreTheScheduleOfThePlaintext : BlockInv ready := ready_inv
theorem witness_RoundTripReturnsTheBuffer : BlockInv State.reset := reset_inv
theorem witness_BothDirectionsLeaveTheSameKeys : BlockInv prebuilt := prebuilt_inv
theorem witness_ChunksAndReadsMakeNoDifference :
    (∃ t, runCommands (expand (.decryptBuffer [])) ready = .next t) ∧
      (shown (runCommands (expand (.decryptBuffer [0x97, 0xD3])) ready)).isSome = true ∧
      (shown (runCommands (expand (.encryptBuffer [0x48])) ready)).isSome = true ∧
      BlockInv ready ∧ ready.kvalid = true ∧
      ∀ i ∈ ([.stat, .tread 0xFF, .tbuild] : List Instr),
        i ∈ ([.stat, .kstrm, .kread0, .kread1, .kread2, .tbuild] : List Instr) ∨ ∃ idx, i = .tread idx :=
  ⟨⟨_, rfl⟩, by decide +kernel, by decide +kernel, ready_inv, rfl, by simp⟩
theorem witness_OutputLengthEqualsInputLength : BlockInv ready ∧ ready.kvalid = true := ⟨ready_inv, rfl⟩
theorem witness_SameInputsGiveTheSameOutput : BlockInv (readyWith 1 2 3) ∧ BlockInv prebuilt :=
  ⟨readyWith_inv .., prebuilt_inv⟩
theorem witness_NewLineExpandsToItsBytes :
    ∀ c ∈ (['t', 'e', 's', 't', ' ', '~'] : List Char), 32 ≤ c.toNat ∧ c.toNat ≤ 126 ∧ c ≠ '"' := by simp

end Sys2Proof.Tests
end

section
/-! ### Runs

The decoder on encoded commands, and what a run does step by step (30_encoding.md R71, 00_scope.md R7). -/

namespace Sys2Proof

/-- The decoder reads an encoded command back (30_encoding.md R63, R66). -/
@[simp] theorem decode_encode (i : Instr) : decode (encode i) = .ok i := by
  cases i <;> simp [decode, encode, decodeFields, noOperand]

end Sys2Proof

namespace Sys2Proof.Machine

/-- A run of any machine that answers a next state made its first step and then the rest of the run. -/
theorem core_run_succ_eq_next {M : Host.Core} {s t : M.State} {n : Nat} (h : M.run (n + 1) s = .next t) :
    ∃ u, M.step s = .next u ∧ M.run n u = .next t := by
  simp only [Host.Core.run] at h
  split at h
  · next u hu => exact ⟨u, hu, h⟩
  · cases h
  · cases h

/-- A run of the block that answers a next state made its first step and then the rest of the run. -/
theorem run_succ_eq_next {s t : State} {n : Nat} (h : Host.Core.run Sys2Proof.core (n + 1) s = .next t) :
    ∃ u, step s = .next u ∧ Host.Core.run Sys2Proof.core n u = .next t :=
  core_run_succ_eq_next h

/-- The step that takes a presented command is that command. -/
theorem step_present (i : Instr) (rest : List HostAction) (s : State) :
    step { s with pending := present i :: rest } = exec i { s with pending := rest } := by
  simp [step, present]

/-- The step that takes a `RESET` is `resetBlock`. -/
theorem step_reset (rest : List HostAction) (s : State) :
    step { s with pending := .reset :: rest } = .next (resetBlock { s with pending := rest }) := rfl

/-- A run of no commands only drops what else was pending. -/
theorem runCommands_nil (s : State) : runCommands [] s = .next { s with pending := [] } := rfl

/-- A run of commands goes on from the state its first command leaves. -/
theorem runCommands_cons {i : Instr} {s t : State} (is : List Instr) (h : exec i s = .next t) :
    runCommands (i :: is) s = runCommands is t :=
  run_succ _ ((step_present i (is.map present) s).trans (exec_ignores_pending _ h))

/-- The first command of a run that answers a next state, and the rest of that run. -/
theorem runCommands_cons_eq_next {i : Instr} {is : List Instr} {s t : State} (h : runCommands (i :: is) s = .next t) :
    ∃ u, exec i s = .next u ∧ runCommands is u = .next t := by
  obtain ⟨u, hu, -⟩ := run_succ_eq_next h
  have hi : exec i s = .next { u with pending := s.pending } :=
    exec_ignores_pending (s := { s with pending := is.map present }) s.pending
      ((step_present i (is.map present) s).symm.trans hu)
  exact ⟨_, hi, (runCommands_cons is hi).symm.trans h⟩

/-- Commands given in two runs are the same commands given in one. -/
theorem runCommands_append {is : List Instr} {s t : State} (js : List Instr) (h : runCommands is s = .next t) :
    runCommands (is ++ js) s = runCommands js t := by
  induction is generalizing s with
  | nil => cases h; rfl
  | cons i is ih =>
    obtain ⟨u, hi, hu⟩ := runCommands_cons_eq_next h
    exact (runCommands_cons (is ++ js) hi).trans (ih hu)

end Sys2Proof.Machine
end

section
/-! ### The invariant of every run

`BlockInv` is established by a reset and kept by every command, step and run (10_state.md R24, R30, R31). -/

namespace Sys2Proof.Machine

/-- A reset establishes the invariant, whatever the state before it. -/
theorem resetBlock_inv (s : State) : BlockInv (resetBlock s) where
  wf := by
    rw [resetBlock_table]
    split
    · exact fillTable_wf nil_wf
    · exact nil_wf
  keysNeedTable h := nomatch h
  built h := by
    rw [resetBlock_tvalid] at h
    rw [resetBlock_table, if_pos h]
    exact fillTable_holdsT []
  unbuilt h := by
    rw [resetBlock_tvalid] at h
    rw [resetBlock_table, if_neg (Bool.eq_false_iff.1 h)]
  prebuilt h := h

/-- The builder keeps the invariant. -/
theorem buildTable_inv {s : State} (h : BlockInv s) : BlockInv (buildTable s) where
  wf := fillTable_wf h.wf
  keysNeedTable _ := rfl
  built _ := fillTable_holdsT _
  unbuilt h := nomatch h
  prebuilt _ := rfl

/-- Where the table is built, loading the three constants keeps the invariant. -/
theorem loadInitialKeys_inv {s : State} (h : BlockInv s) (hv : s.tvalid = true) : BlockInv (loadInitialKeys s) where
  wf := h.wf
  keysNeedTable _ := hv
  built := h.built
  unbuilt := h.unbuilt
  prebuilt := h.prebuilt

/-- A ready block's table holds `T` (10_state.md R24, R30). -/
theorem BlockInv.holdsT_of_kvalid {s : State} (h : BlockInv s) (hk : s.kvalid = true) : TableHoldsT s.table :=
  h.built (h.keysNeedTable hk)

/-- The table `KINIT` works on: the old one where it is built, a new one otherwise (42_cipher_engine.md R102). -/
theorem kinitTable_inv {s : State} (h : BlockInv s) :
    BlockInv (if s.tvalid then s else buildTable s) ∧
      (if s.tvalid then s else buildTable s).tvalid = true := by
  split
  · next hv => exact ⟨h, hv⟩
  · exact ⟨buildTable_inv h, rfl⟩

/-- Every command keeps the invariant. -/
theorem BlockInv.of_exec {i : Instr} {s t : State} (h : BlockInv s) (he : exec i s = .next t) : BlockInv t := by
  cases effect_of_exec he with
  | answered r => exact h.congr rfl rfl rfl rfl
  | advanced k d ready which => exact h.congr rfl rfl rfl rfl
  | built which => exact (buildTable_inv h).congr rfl rfl rfl rfl
  | initialised which =>
    obtain ⟨ht, hv⟩ := kinitTable_inv h
    exact (loadInitialKeys_inv ht hv).congr rfl rfl rfl rfl

/-- Every step keeps the invariant. -/
theorem BlockInv.of_step {s t : State} (h : BlockInv s) (hs : step s = .next t) : BlockInv t := by
  cases hp : s.pending with
  | nil =>
    simp only [step, takeAction_of_idle hp] at hs
    cases hs
    exact h
  | cons a rest =>
    have hrest : BlockInv { s with pending := rest } := h.congr rfl rfl rfl rfl
    simp only [step, takeAction_of_pending hp] at hs
    cases a with
    | reset => cases hs; exact resetBlock_inv _
    | resetDuring w => cases hs; exact resetBlock_inv _
    | command w =>
      cases hw : decode w with
      | ok i =>
        simp only [hw] at hs
        exact hrest.of_exec hs
      | error e =>
        simp only [hw] at hs
        cases hs
        exact hrest.congr rfl rfl rfl rfl

/-- Every run keeps the invariant. -/
theorem BlockInv.of_run {n : Nat} {s t : State} (h : BlockInv s) (hr : Host.Core.run Sys2Proof.core n s = .next t) :
    BlockInv t := by
  induction n generalizing s with
  | zero => cases hr; exact h
  | succ n ih =>
    obtain ⟨u, hu, hr⟩ := run_succ_eq_next hr
    exact ih (h.of_step hu) hr

/-- Settles O50: the initial `RESET` establishes the invariant for either parameter, every later step keeps it, and R30
is one of its clauses. -/
theorem kvalidImpliesTvalidInEveryRun : Obligations.KvalidImpliesTvalidInEveryRun := by
  intro p acts n t hrun
  obtain ⟨u, hu, hrun⟩ := run_succ_eq_next hrun
  have hreset := step_reset acts { State.reset with params := p }
  cases hu.symm.trans hreset
  exact ((resetBlock_inv _).of_run hrun).keysNeedTable

end Sys2Proof.Machine
end

section
/-! ### The key schedule of `NEW P` and a list of transforms

What `NEW P` and a list of transforms leave: the CipherState is `update_keys` folded over the plaintext bytes
(10_state.md R23; 42_cipher_engine.md R102, R103, R105, R106). -/

namespace Sys2Proof.Machine

/-- A byte widened to 32 bits and taken out again. -/
@[simp] theorem lowByte_zext32 (b : Byte) : lowByte (zext32 b) = b := by
  unfold lowByte zext32
  exact (BitVec.extractLsb'_setWidth_of_le (by omega)).trans BitVec.extractLsb'_eq_self

/-- A ready block after commands that advanced the CipherState to `k` and gave the responses `rs`. -/
def advancedTo (k : Keys) (rs : List Response) (s : State) : State :=
  { withKeys k s with responses := s.responses ++ rs }

@[simp] theorem advancedTo_table (k : Keys) (rs : List Response) (s : State) : (advancedTo k rs s).table = s.table := rfl
@[simp] theorem advancedTo_kvalid (k : Keys) (rs : List Response) (s : State) : (advancedTo k rs s).kvalid = s.kvalid := rfl
@[simp] theorem advancedTo_responses (k : Keys) (rs : List Response) (s : State) :
    (advancedTo k rs s).responses = s.responses ++ rs := rfl
@[simp] theorem keysOf_advancedTo (k : Keys) (rs : List Response) (s : State) : keysOf (advancedTo k rs s) = k := rfl

/-- Only the last CipherState counts, and the responses follow one another. -/
@[simp] theorem advancedTo_advancedTo (k k' : Keys) (rs rs' : List Response) (s : State) :
    advancedTo k' rs' (advancedTo k rs s) = advancedTo k' (rs ++ rs') s := by
  simp [advancedTo, withKeys]

/-- No command, no change. -/
@[simp] theorem advancedTo_self (s : State) : advancedTo (keysOf s) [] s = s := by
  simp [advancedTo, withKeys, keysOf]

/-- The response of a transform: its input XORed with the keystream byte (42_cipher_engine.md R105, R106). -/
def transformResponse (d : Transform) (s : State) : Response := ⟨.ok, zext32 (d.2 ^^^ keystream s)⟩

/-- `KUPD` in a ready block (42_cipher_engine.md R103). -/
theorem exec_kupd_of_ready {s : State} (hT : TableHoldsT s.table) (hk : s.kvalid = true) (b : Byte) :
    exec (.kupd b) s = .next (advancedTo (advance (keysOf s) b) [⟨.ok, 0⟩] s) :=
  (requireKeys_of_kvalid hk _).trans (updateAndRespond_of_holdsT hT b 0)

/-- `DEC` or `ENC` in a ready block: the plaintext byte drives the update (42_cipher_engine.md R105, R106). -/
theorem exec_transformCommand_of_ready {s : State} (hT : TableHoldsT s.table) (hk : s.kvalid = true) (d : Transform) :
    exec (transformCommand d) s
      = .next (advancedTo (advance (keysOf s) (plaintextOf d (transformResponse d s))) [transformResponse d s] s) := by
  have hexec : exec (transformCommand d) s = transformByte d.1 d.2 s := by
    obtain ⟨_ | _, b⟩ := d <;> rfl
  have hbyte : (transformResponse d s).byte = d.2 ^^^ keystream s := lowByte_zext32 _
  rw [hexec, transformByte, requireKeys_of_kvalid hk, updateAndRespond_of_holdsT hT, plaintextOf, hbyte]
  rfl

/-- A list of `KUPD`s folds `update_keys` over its bytes. -/
theorem runCommands_kupds {s : State} (bs : List Byte) (hT : TableHoldsT s.table) (hk : s.kvalid = true) :
    runCommands (bs.map Instr.kupd) s
      = .next { advancedTo (bs.foldl advance (keysOf s)) (List.replicate bs.length ⟨.ok, 0⟩) s with pending := [] } := by
  induction bs generalizing s with
  | nil => exact (runCommands_nil s).trans (by simp)
  | cons b bs ih =>
    rw [List.map_cons, runCommands_cons _ (exec_kupd_of_ready hT hk b),
      ih (s := advancedTo (advance (keysOf s) b) [⟨.ok, 0⟩] s) hT hk]
    simp [List.replicate_succ]

/-- A list of transforms folds `update_keys` over its plaintext bytes, and every response is `OK`. -/
theorem runCommands_transforms {s : State} (ds : List Transform) (hT : TableHoldsT s.table) (hk : s.kvalid = true) :
    ∃ rs : List Response, rs.length = ds.length ∧ (∀ r ∈ rs, r.sts = .ok) ∧
      runCommands (ds.map transformCommand) s = .next
        { advancedTo ((List.zipWith plaintextOf ds rs).foldl advance (keysOf s)) rs s with pending := [] } := by
  induction ds generalizing s with
  | nil => exact ⟨[], rfl, by simp, (runCommands_nil s).trans (by simp)⟩
  | cons d ds ih =>
    obtain ⟨rs, hlen, hok, hrun⟩ :=
      ih (s := advancedTo (advance (keysOf s) (plaintextOf d (transformResponse d s))) [transformResponse d s] s) hT hk
    refine ⟨transformResponse d s :: rs, by simp [hlen], List.forall_mem_cons.2 ⟨rfl, hok⟩, ?_⟩
    rw [List.map_cons, runCommands_cons _ (exec_transformCommand_of_ready hT hk d), hrun]
    simp

/-- `KINIT` makes a block that meets the invariant ready, with the three constants as its CipherState
(42_cipher_engine.md R102). -/
theorem exec_kinit_of_inv {s : State} (h : BlockInv s) :
    ∃ t, exec .kinit s = .next t ∧ BlockInv t ∧ t.kvalid = true ∧ keysOf t = initialKeys ∧
      t.responses = s.responses ++ [⟨.ok, 0⟩] := by
  refine ⟨_, rfl, h.of_exec (i := .kinit) rfl, rfl, rfl, ?_⟩
  cases hv : s.tvalid <;> simp

/-- `NEW P` leaves a ready block whose CipherState is `f(P, ∅)` (10_state.md R23, 42_cipher_engine.md R107). -/
theorem runCommands_newCipher {s : State} (h : BlockInv s) (password : List Byte) :
    ∃ t, runCommands (expand (.newCipher password)) s = .next t ∧ TableHoldsT t.table ∧ t.kvalid = true ∧
      keysOf t = password.foldl advance initialKeys ∧
      t.responses = s.responses ++ List.replicate (password.length + 1) ⟨.ok, 0⟩ := by
  obtain ⟨u, hexec, hinv, hk, hkeys, hresp⟩ := exec_kinit_of_inv h
  have hT := hinv.holdsT_of_kvalid hk
  refine ⟨_, (runCommands_cons _ hexec).trans (runCommands_kupds password hT hk), hT, hk, ?_, ?_⟩
  · rw [← hkeys]
    rfl
  · simp [hresp, List.replicate_succ]

/-- Settles O53: `NEW P` folds `update_keys` over `P`, and the transforms fold it on over the plaintext bytes. -/
theorem keysAreTheScheduleOfThePlaintext : Obligations.KeysAreTheScheduleOfThePlaintext := by
  intro s password ds hinv
  obtain ⟨t, hnew, hT, hk, hkeys, hresp⟩ := runCommands_newCipher hinv password
  obtain ⟨rs, hlen, hok, hrun⟩ := runCommands_transforms ds hT hk
  refine ⟨_, rs, (runCommands_append _ hnew).trans hrun, ?_, hlen, hok, hk, ?_⟩
  · simp [hresp]
  · calc
      _ = (List.zipWith plaintextOf ds rs).foldl advance (keysOf t) := rfl
      _ = keySchedule password (List.zipWith plaintextOf ds rs) := by rw [hkeys, keySchedule, List.foldl_append]

end Sys2Proof.Machine
end

section
/-! ### The operand field of the commands without an operand

The decoder reads the two fields of a word; where the opcode is that of a command without an operand, the operand field
is checked and nothing else (30_encoding.md R60, R64). -/

namespace Sys2Proof

/-- The commands without an operand (30_encoding.md R63, R64). -/
def noOperandCommands : List Instr := [.stat, .tbuild, .kinit, .kstrm, .kread0, .kread1, .kread2]

/-- Decoding the word of two fields decodes the fields (30_encoding.md R60). -/
@[simp] theorem decode_joinFields (opc opd : Byte) : decode (joinFields opc opd) = decodeFields opc opd := by
  rw [decode, opcOf_joinFields, opdOf_joinFields]

@[simp] theorem noOperand_zero (i : Instr) : noOperand i 0 = .ok i := if_pos rfl

theorem noOperand_of_ne_zero (i : Instr) {opd : Byte} (h : opd ≠ 0) : noOperand i opd = .error .operandNotZero := if_neg h

/-- The opcode of a command without an operand selects the zero check of that very command, whatever the operand field
holds: no earlier row of the opcode map takes the word (30_encoding.md R63, R64). -/
theorem decodeFields_opcode_of_noOperand {i : Instr} (hi : i ∈ noOperandCommands) (opd : Byte) :
    decodeFields (opcOf (encode i)) opd = noOperand i opd := by
  cases i with
  | stat | tbuild | kinit | kstrm | kread0 | kread1 | kread2 => rfl
  | tread | kupd | dec | enc => simp [noOperandCommands] at hi

/-- Settles O6: the opcode of such a command leads to `noOperand`, which accepts the operand 0 and refuses every
other. -/
theorem noOperandCommandsRequireZeroOperand : Obligations.NoOperandCommandsRequireZeroOperand := by
  intro i opd hi
  rw [decode_joinFields, decodeFields_opcode_of_noOperand hi]
  constructor
  · rintro rfl
    exact noOperand_zero i
  · exact noOperand_of_ne_zero i

end Sys2Proof
end

section
/-! ### The functions of the CRC table

A round bit by bit, an entry as an iterate of the round, and `crc32_step` on a built table (41_crc_table.md R80 to
R83). -/

namespace Sys2Proof.Machine

/-- A round with bit 0 set is the shift and then the XOR with the polynomial (41_crc_table.md R80). -/
theorem crcRound_of_bit0 {crc : Word} (h : crc.getLsbD 0 = true) : crcRound crc = (crc >>> 1) ^^^ Config.poly := if_pos h

/-- A round with bit 0 clear is the shift alone (41_crc_table.md R80). -/
theorem crcRound_of_not_bit0 {crc : Word} (h : crc.getLsbD 0 = false) : crcRound crc = crc >>> 1 :=
  if_neg (Bool.eq_false_iff.1 h)

/-- Settles O9, by the two cases of bit 0: clear, the round is the shift; set, the polynomial's bit is XORed in. -/
theorem crcRoundBitByBit : Obligations.CrcRoundBitByBit := by
  intro crc j _
  have hshift : (crc >>> 1).getLsbD j = crc.getLsbD (j + 1) := by rw [BitVec.getLsbD_ushiftRight, Nat.add_comm]
  cases h : crc.getLsbD 0 with
  | false => rw [crcRound_of_not_bit0 h, hshift, Bool.false_and, Bool.xor_false]
  | true => rw [crcRound_of_bit0 h, BitVec.getLsbD_xor, hshift, Bool.true_and, Config.poly]

/-- Rounds in turn are the iterate of the round. -/
theorem crcRounds_eq_iterate (n : Nat) (c : Word) : crcRounds n c = crcRound^[n] c := by
  induction n generalizing c with
  | zero => rfl
  | succ n ih => exact ih (crcRound c)

/-- Settles O10: the entry's rounds are the iterate, and their number is 8. -/
theorem crcEntryIsEightRounds : Obligations.CrcEntryIsEightRounds := fun i =>
  crcRounds_eq_iterate Config.rounds (zext32 i)

/-- `v[7:0]` is the value cut to 8 bits (20_memory.md R44). -/
theorem lowByte_eq_setWidth (v : Word) : lowByte v = v.setWidth 8 := (BitVec.setWidth_eq_extractLsb' (by decide)).symm

/-- Settles O13: a built table holds `T`, and the index byte of `crc32_step` is the XOR cut to 8 bits. -/
theorem crc32StepOnBuiltTable : Obligations.Crc32StepOnBuiltTable := by
  intro s byte crc hinv hv
  rw [crc32Step_of_holdsT (hinv.built hv), crcStep, lowByte_eq_setWidth, zext32]

end Sys2Proof.Machine
end

section
/-! ### The commands of the CRC table

What `TBUILD` and `TREAD` answer and leave (41_crc_table.md R84 to R86). -/

namespace Sys2Proof.Machine

/-- `TBUILD` runs the builder and answers `OK` with 0 (41_crc_table.md R84). -/
theorem exec_tbuild (s : State) : exec .tbuild s = .next (respond .ok 0 (buildTable s)) := rfl

/-- Settles O18: the builder leaves `T` whatever the table held, and sets `TVALID`. -/
theorem tbuildWritesEveryEntry : Obligations.TbuildWritesEveryEntry := fun s =>
  ⟨_, exec_tbuild s, fillTable_holdsT s.table, rfl⟩

/-- Building over a canonical table that holds `T` gives the same list (41_crc_table.md R86). -/
theorem fillTable_of_holdsT {m : Memory} (hwf : m.wf) (h : TableHoldsT m) : fillTable m = m :=
  eq_of_holdsT (fillTable_wf hwf) hwf (fillTable_holdsT m) h

/-- On a block whose table is built the builder changes nothing (41_crc_table.md R86). -/
theorem buildTable_of_tvalid {s : State} (hinv : BlockInv s) (hv : s.tvalid = true) : buildTable s = s := by
  rw [buildTable, fillTable_of_holdsT hinv.wf (hinv.built hv), ← hv]

/-- Settles O19: `TBUILD` is the builder, which changes nothing on a built table, and the answer. -/
theorem rebuildChangesNothing : Obligations.RebuildChangesNothing := by
  intro s hinv hv
  rw [exec_tbuild, buildTable_of_tvalid hinv hv, respond]

/-- `TREAD` of an entry that holds a value, with `TVALID` set, answers the value (41_crc_table.md R85). -/
theorem exec_tread_of_tvalid {s : State} {idx : Byte} {v : Word} (hv : s.tvalid = true)
    (hread : memRead s.table idx = some v) : exec (.tread idx) s = .next (respond .ok v s) := by
  simp only [exec, execTread, if_pos hv, hread]

/-- `TREAD` with `TVALID` clear raises `E_NOTABLE`, whatever the table holds (60_exceptions.md R143). -/
theorem exec_tread_of_not_tvalid {s : State} (idx : Byte) (hv : s.tvalid = false) :
    exec (.tread idx) s = .next (raise .noTable s) :=
  if_neg (Bool.eq_false_iff.1 hv)

/-- Settles O20: where the table is built the invariant says the entry reads `T[idx]`; otherwise the check comes first. -/
theorem treadAnswersTheEntry : Obligations.TreadAnswersTheEntry := fun _ idx hinv =>
  ⟨fun hv => exec_tread_of_tvalid hv (hinv.built hv idx), exec_tread_of_not_tvalid idx⟩

end Sys2Proof.Machine
end

section
/-! ### The functions of the cipher engine

`update_keys` and `keystream` in plain numbers (42_cipher_engine.md R100, R101). -/

namespace Sys2Proof.Machine

/-- `crc32_step` against the constant table, with its index cut out of the XOR (41_crc_table.md R83). -/
theorem crcStep_eq (byte : Byte) (crc : Word) :
    crcStep byte crc = ((crc >>> 8) &&& 0x00FFFFFF) ^^^ crcEntry ((crc ^^^ byte.setWidth 32).setWidth 8) := by
  rw [crcStep, lowByte_eq_setWidth, zext32]

@[simp] theorem toNat_zext32 (b : Byte) : (zext32 b).toNat = b.toNat :=
  BitVec.toNat_setWidth_of_le (by decide)

@[simp] theorem toNat_lowByte (v : Word) : (lowByte v).toNat = v.toNat % 256 := by
  rw [lowByte_eq_setWidth, BitVec.toNat_setWidth]

@[simp] theorem toNat_lowHalf (v : Word) : (lowHalf v).toNat = v.toNat % 2 ^ 16 := by
  rw [lowHalf, BitVec.extractLsb'_toNat, Nat.shiftRight_zero]

theorem highByte_eq_ofNat (v : Word) : highByte v = BitVec.ofNat 8 (v.toNat / 2 ^ 24) := by
  rw [highByte, BitVec.extractLsb', Nat.shiftRight_eq_div_pow]

/-- Step 3 of the key update in arithmetic modulo 2^32 (42_cipher_engine.md R100). -/
theorem toNat_mulAdd (v : Word) : (mulAdd v).toNat = (134775813 * v.toNat + 1) % 2 ^ 32 := by
  have hmult : Config.mult.toNat = 134775813 := rfl
  have hinc : Config.inc.toNat = 1 := rfl
  rw [mulAdd, BitVec.toNat_add, BitVec.toNat_mul, hmult, hinc, Nat.mod_add_mod]

/-- The sum of step 2 of the key update in arithmetic modulo 2^32 (42_cipher_engine.md R100). -/
theorem toNat_add_zext32_lowByte (v w : Word) :
    (v + zext32 (lowByte w)).toNat = (v.toNat + w.toNat % 256) % 2 ^ 32 := by
  rw [BitVec.toNat_add, toNat_zext32, toNat_lowByte]

/-- Settles O14: on a built table `update_keys` is `advance`, whose registers are then read in numbers. -/
theorem updateKeysTakesFourSteps : Obligations.UpdateKeysTakesFourSteps := by
  intro s byte hinv hv
  refine ⟨_, updateKeys_of_holdsT (hinv.built hv) byte, crcStep_eq _ _, ?_, ?_, rfl⟩
  · exact (toNat_mulAdd _).trans (by rw [toNat_add_zext32_lowByte]; rfl)
  · exact (crcStep_eq _ _).trans (by rw [highByte_eq_ofNat]; rfl)

/-- Settles O15: the factors are `k` and `k ^ 1` of 16 bits, and the reduction modulo 2^32 does not reach bits 15:8. -/
theorem keystreamIsBits15To8OfProduct : Obligations.KeystreamIsBits15To8OfProduct := by
  intro s
  have hor : Config.ksOr.toNat = 2 := rfl
  have hone : (0x0001 : BitVec 16).toNat = 1 := rfl
  have hwide (h : BitVec 16) : (h.setWidth 32).toNat = h.toNat := BitVec.toNat_setWidth_of_le (by decide)
  have hbits (n : Nat) : n % 2 ^ 32 / 2 ^ 8 % 2 ^ 8 = n / 2 ^ 8 % 2 ^ 8 := by omega
  simp only [keystream, readKey_2, BitVec.extractLsb'_toNat, BitVec.toNat_mul, hwide, BitVec.toNat_xor,
    BitVec.toNat_or, toNat_lowHalf, hor, hone, Nat.shiftRight_eq_div_pow, hbits]

end Sys2Proof.Machine
end

section
/-! ### The commands of the cipher engine

What `KINIT`, `KUPD`, `KSTRM`, `DEC` and `ENC` answer and leave (42_cipher_engine.md R102 to R106, R114). -/

namespace Sys2Proof.Machine

/-- `KINIT` loads the constants, after the builder where the table is unbuilt (42_cipher_engine.md R102). -/
theorem exec_kinit (s : State) :
    exec .kinit s = .next (respond .ok 0 (loadInitialKeys (if s.tvalid then s else buildTable s))) := rfl

/-- Settles O21, by the two cases of `TVALID`: `KINIT` takes the table as it is, or builds it first. -/
theorem kinitLoadsTheConstants : Obligations.KinitLoadsTheConstants := by
  refine fun s => ⟨_, exec_kinit s, ?_⟩
  cases hv : s.tvalid with
  | true => exact ⟨by rw [if_pos rfl, respond, loadInitialKeys, hv]; rfl, fun _ => rfl, (nomatch ·)⟩
  | false => exact ⟨rfl, (nomatch ·), fun _ => fillTable_holdsT s.table⟩

/-- Settles O22: the check of `KVALID` passes and the keys advance, or it fails and nothing else happens. -/
theorem kupdAdvancesTheKeys : Obligations.KupdAdvancesTheKeys := fun _ byte hinv =>
  ⟨fun hk => exec_kupd_of_ready (hinv.holdsT_of_kvalid hk) hk byte, fun hk => requireKeys_of_not_kvalid hk _⟩

/-- `KSTRM` in a ready block (42_cipher_engine.md R104). -/
theorem exec_kstrm_of_kvalid {s : State} (hk : s.kvalid = true) :
    exec .kstrm s = .next (respond .ok (zext32 (keystream s)) s) :=
  requireKeys_of_kvalid hk _

/-- A byte widened to 32 bits, by its number. -/
theorem zext32_eq_ofNat (b : Byte) : zext32 b = BitVec.ofNat 32 b.toNat :=
  BitVec.eq_of_toNat_eq (by rw [toNat_zext32, BitVec.toNat_ofNat, Nat.mod_eq_of_lt (by omega)])

/-- Settles O23: the answer is the keystream byte, whose number is that of O15. -/
theorem kstrmAnswersTheKeystreamByte : Obligations.KstrmAnswersTheKeystreamByte := by
  refine fun s => ⟨fun hk => ?_, fun hk => requireKeys_of_not_kvalid hk _⟩
  rw [exec_kstrm_of_kvalid hk, zext32_eq_ofNat, keystreamIsBits15To8OfProduct, respond]

/-- A transform without a CipherState raises `E_NOKEY` (60_exceptions.md R142). -/
theorem exec_transformCommand_of_not_kvalid {s : State} (hk : s.kvalid = false) (d : Transform) :
    exec (transformCommand d) s = .next (raise .noKey s) := by
  obtain ⟨_ | _, b⟩ := d
  · exact requireKeys_of_not_kvalid hk _
  · exact requireKeys_of_not_kvalid hk _

/-- The byte of a transform's response is its input XORed with the keystream byte. -/
@[simp] theorem transformResponse_byte (d : Transform) (s : State) :
    (transformResponse d s).byte = d.2 ^^^ keystream s :=
  lowByte_zext32 _

/-- Settles O25: `DEC` is the transform that its own output drives. -/
theorem decAdvancesWithRecoveredPlaintext : Obligations.DecAdvancesWithRecoveredPlaintext := by
  refine fun s c hinv => ⟨fun hk => ?_, fun hk => exec_transformCommand_of_not_kvalid hk (.decrypt, c)⟩
  have hexec := exec_transformCommand_of_ready (hinv.holdsT_of_kvalid hk) hk (.decrypt, c)
  rw [plaintextOf, transformResponse_byte] at hexec
  exact hexec

/-- Settles O26: `ENC` is the transform that its input drives. -/
theorem encAdvancesWithInputPlaintext : Obligations.EncAdvancesWithInputPlaintext := fun _ p hinv =>
  ⟨fun hk => exec_transformCommand_of_ready (hinv.holdsT_of_kvalid hk) hk (.encrypt, p),
    fun hk => exec_transformCommand_of_not_kvalid hk (.encrypt, p)⟩

/-- Settles O33: in a ready block each of the four commands passes its check and answers `OK`. -/
theorem readyBlockAlwaysAnswersOk : Obligations.ReadyBlockAlwaysAnswersOk := by
  intro s b i hinv hk hi
  have hT := hinv.holdsT_of_kvalid hk
  simp only [List.mem_cons, List.not_mem_nil, or_false] at hi
  rcases hi with rfl | rfl | rfl | rfl
  · exact ⟨_, _, exec_kupd_of_ready hT hk b, rfl, hk⟩
  · exact ⟨_, _, exec_kstrm_of_kvalid hk, rfl, hk⟩
  · exact ⟨_, _, exec_transformCommand_of_ready hT hk (.decrypt, b), rfl, hk⟩
  · exact ⟨_, _, exec_transformCommand_of_ready hT hk (.encrypt, b), rfl, hk⟩

end Sys2Proof.Machine
end

section
/-! ### Streams of transforms

A transform in a ready block answers and advances by its CipherState alone, so the output and the last CipherState of a
list of transforms are functions of the first (42_cipher_engine.md R107 to R113). -/

namespace Sys2Proof.Machine

/-- The keystream byte of a CipherState. -/
def keystreamOf (k : Keys) : Byte := keystream (withKeys k State.reset)

/-- The keystream byte of a state is that of its CipherState. -/
theorem keystream_eq_keystreamOf (s : State) : keystream s = keystreamOf (keysOf s) := rfl

/-- The byte a transform gives back in a CipherState. -/
def outputByte (k : Keys) (d : Transform) : Byte := d.2 ^^^ keystreamOf k

/-- The CipherState a transform leaves. -/
def nextKeys (k : Keys) (d : Transform) : Keys := advance k (drivingByte d.1 d.2 (outputByte k d))

/-- The bytes a list of transforms gives back, each in the CipherState the ones before it left. -/
def outputs : Keys → List Transform → List Byte
  | _, [] => []
  | k, d :: ds => outputByte k d :: outputs (nextKeys k d) ds

@[simp] theorem length_outputs (k : Keys) (ds : List Transform) : (outputs k ds).length = ds.length := by
  induction ds generalizing k with
  | nil => rfl
  | cons d ds ih => simp [outputs, ih]

/-- The response `OK` with a byte (30_encoding.md R62). -/
def okByte (b : Byte) : Response := ⟨.ok, b.setWidth 32⟩

@[simp] theorem byte_okByte (b : Byte) : (okByte b).byte = b := lowByte_zext32 b

@[simp] theorem map_byte_map_okByte (bs : List Byte) : (bs.map okByte).map Response.byte = bs := by
  simp [Function.comp_def]

/-- A transform in a ready block, by its CipherState. -/
theorem exec_transformCommand_of_keys {s : State} {k : Keys} (hT : TableHoldsT s.table) (hk : s.kvalid = true)
    (hkeys : keysOf s = k) (d : Transform) :
    exec (transformCommand d) s = .next (advancedTo (nextKeys k d) [okByte (outputByte k d)] s) := by
  have hplain : plaintextOf d (transformResponse d s) = drivingByte d.1 d.2 (outputByte k d) := by
    rw [plaintextOf, transformResponse_byte, keystream_eq_keystreamOf, hkeys, outputByte]
  rw [exec_transformCommand_of_ready hT hk, hplain, transformResponse, keystream_eq_keystreamOf, hkeys]
  rfl

/-- A list of transforms in a ready block. -/
theorem runCommands_transforms_eq {s : State} {k : Keys} (ds : List Transform) (hT : TableHoldsT s.table)
    (hk : s.kvalid = true) (hkeys : keysOf s = k) :
    runCommands (ds.map transformCommand) s
      = .next { advancedTo (ds.foldl nextKeys k) ((outputs k ds).map okByte) s with pending := [] } := by
  subst hkeys
  induction ds generalizing s with
  | nil => exact (runCommands_nil s).trans (by simp [outputs])
  | cons d ds ih =>
    rw [List.map_cons, runCommands_cons _ (exec_transformCommand_of_keys hT hk rfl d),
      ih (s := advancedTo (nextKeys (keysOf s) d) [okByte (outputByte (keysOf s) d)] s) hT hk]
    simp [outputs]

/-- A run of commands keeps the invariant. -/
theorem BlockInv.of_runCommands {is : List Instr} {s t : State} (h : BlockInv s) (hr : runCommands is s = .next t) :
    BlockInv t :=
  BlockInv.of_run (s := { s with pending := is.map present }) (h.congr rfl rfl rfl rfl) hr

/-- `NEW P` and a list of transforms, from any state that meets the invariant. -/
theorem runCommands_new_transforms {s : State} (h : BlockInv s) (password : List Byte) (ds : List Transform) :
    ∃ t, runCommands (expand (.newCipher password) ++ ds.map transformCommand) s = .next t ∧
      t.responses = s.responses ++ List.replicate (password.length + 1) ⟨.ok, 0⟩
        ++ (outputs (keySchedule password []) ds).map okByte ∧
      keysOf t = ds.foldl nextKeys (keySchedule password []) := by
  obtain ⟨u, hnew, hT, hk, hkeys, hresp⟩ := runCommands_newCipher h password
  have hfresh : keysOf u = keySchedule password [] := by rw [hkeys, keySchedule, List.append_nil]
  refine ⟨_, (runCommands_append _ hnew).trans (runCommands_transforms_eq ds hT hk hfresh), ?_, rfl⟩
  rw [← hresp]
  rfl

/-- Settles O58: what `NEW P` and the transforms answer and leave does not depend on the state they start from. -/
theorem sameInputsGiveTheSameOutput : Obligations.SameInputsGiveTheSameOutput := by
  intro s s' password ds hinv hinv'
  obtain ⟨t, hrun, hresp, hkeys⟩ := runCommands_new_transforms hinv password ds
  obtain ⟨t', hrun', hresp', hkeys'⟩ := runCommands_new_transforms hinv' password ds
  rw [List.append_assoc] at hresp hresp'
  exact ⟨t, t', _, hrun, hrun', hresp, hresp', hkeys.trans hkeys'.symm⟩

end Sys2Proof.Machine
end

section
/-! ### Buffers

`DECRYPT` and `ENCRYPT` of a buffer as lists of transforms, and the round trip (42_cipher_engine.md R108 to R110, R112). -/

namespace Sys2Proof.Machine

/-- The transforms of a buffer in one direction. -/
def transformsOf (dir : Direction) (buffer : List Byte) : List Transform := buffer.map (Prod.mk dir)

@[simp] theorem transformsOf_cons (dir : Direction) (b : Byte) (bs : List Byte) :
    transformsOf dir (b :: bs) = (dir, b) :: transformsOf dir bs := rfl

@[simp] theorem length_transformsOf (dir : Direction) (buffer : List Byte) :
    (transformsOf dir buffer).length = buffer.length := List.length_map _

theorem expand_decryptBuffer (buffer : List Byte) :
    expand (.decryptBuffer buffer) = (transformsOf .decrypt buffer).map transformCommand := by
  rw [transformsOf, List.map_map]
  rfl

theorem expand_encryptBuffer (buffer : List Byte) :
    expand (.encryptBuffer buffer) = (transformsOf .encrypt buffer).map transformCommand := by
  rw [transformsOf, List.map_map]
  rfl

/-- The other direction. -/
def Direction.inverse : Direction → Direction
  | .decrypt => .encrypt
  | .encrypt => .decrypt

/-- Output and input trade places when the direction does, and the plaintext byte stays. -/
theorem drivingByte_inverse (dir : Direction) (input output : Byte) :
    drivingByte dir.inverse output input = drivingByte dir input output := by
  cases dir with
  | decrypt => rfl
  | encrypt => rfl

/-- The inverse transform of the output byte gives the input byte back. -/
theorem outputByte_inverse (k : Keys) (dir : Direction) (b : Byte) :
    outputByte k (dir.inverse, outputByte k (dir, b)) = b := by
  simp [outputByte]

/-- The inverse transform of the output byte leaves the same CipherState. -/
theorem nextKeys_inverse (k : Keys) (dir : Direction) (b : Byte) :
    nextKeys k (dir.inverse, outputByte k (dir, b)) = nextKeys k (dir, b) := by
  simp only [nextKeys, outputByte_inverse, drivingByte_inverse]

/-- The inverse transforms of a buffer's output give the buffer back. -/
theorem outputs_inverse (k : Keys) (dir : Direction) (buffer : List Byte) :
    outputs k (transformsOf dir.inverse (outputs k (transformsOf dir buffer))) = buffer := by
  induction buffer generalizing k with
  | nil => rfl
  | cons b bs ih =>
    simp only [transformsOf_cons, outputs, outputByte_inverse, nextKeys_inverse, ih]

/-- The inverse transforms of a buffer's output leave the same CipherState. -/
theorem foldl_nextKeys_inverse (k : Keys) (dir : Direction) (buffer : List Byte) :
    (transformsOf dir.inverse (outputs k (transformsOf dir buffer))).foldl nextKeys k
      = (transformsOf dir buffer).foldl nextKeys k := by
  induction buffer generalizing k with
  | nil => rfl
  | cons b bs ih =>
    simp only [transformsOf_cons, outputs, List.foldl_cons, nextKeys_inverse, ih]

/-- The CipherState after `NEW P; ENCRYPT S` is `f(P, S)` (10_state.md R23). -/
theorem foldl_nextKeys_encrypt (password buffer : List Byte) :
    (transformsOf .encrypt buffer).foldl nextKeys (keySchedule password []) = keySchedule password buffer := by
  have hinput : ∀ k b, nextKeys k (.encrypt, b) = advance k b := fun _ _ => rfl
  simp only [transformsOf, List.foldl_map, hinput, keySchedule, List.append_nil, List.foldl_append]

/-- `NEW P` and a buffer one way, then `NEW P` and the bytes answered the other way: the buffer comes back. -/
theorem runCommands_roundTrip {s : State} (h : BlockInv s) (password buffer : List Byte) (dir : Direction) :
    ∃ t u rs,
      runCommands (expand (.newCipher password) ++ (transformsOf dir buffer).map transformCommand) s = .next t ∧
      t.responses = s.responses ++ List.replicate (password.length + 1) ⟨.ok, 0⟩ ++ rs ∧
      runCommands (expand (.newCipher password)
        ++ (transformsOf dir.inverse (rs.map Response.byte)).map transformCommand) t = .next u ∧
      u.responses = t.responses ++ List.replicate (password.length + 1) ⟨.ok, 0⟩ ++ buffer.map okByte := by
  obtain ⟨t, hrun, hresp, -⟩ := runCommands_new_transforms h password (transformsOf dir buffer)
  obtain ⟨u, hback, hresp', -⟩ := runCommands_new_transforms (h.of_runCommands hrun) password
    (transformsOf dir.inverse (outputs (keySchedule password []) (transformsOf dir buffer)))
  rw [outputs_inverse] at hresp'
  exact ⟨t, u, _, hrun, hresp, by rwa [map_byte_map_okByte], hresp'⟩

/-- Settles O54: the round trip that begins with `ENCRYPT`, and the one that begins with `DECRYPT`. -/
theorem roundTripReturnsTheBuffer : Obligations.RoundTripReturnsTheBuffer := by
  intro s password buffer hinv
  simp only [expand_encryptBuffer, expand_decryptBuffer]
  exact ⟨runCommands_roundTrip hinv password buffer .encrypt, runCommands_roundTrip hinv password buffer .decrypt⟩

/-- Settles O55: `DECRYPT` of the output leaves the CipherState that `ENCRYPT` left, which is `f(P, S)`. -/
theorem bothDirectionsLeaveTheSameKeys : Obligations.BothDirectionsLeaveTheSameKeys := by
  intro s password buffer hinv
  simp only [expand_encryptBuffer, expand_decryptBuffer]
  obtain ⟨t, hrun, hresp, hkeys⟩ := runCommands_new_transforms hinv password (transformsOf .encrypt buffer)
  obtain ⟨u, hback, -, hkeys'⟩ := runCommands_new_transforms hinv password
    (transformsOf .decrypt (outputs (keySchedule password []) (transformsOf .encrypt buffer)))
  have hsame := foldl_nextKeys_inverse (keySchedule password []) .encrypt buffer
  rw [foldl_nextKeys_encrypt] at hkeys hsame
  exact ⟨t, u, _, hrun, hresp, by rwa [map_byte_map_okByte], hkeys, hkeys'.trans hsame⟩

/-- A ready block answers the bytes of a buffer's transforms, one for each. -/
theorem runCommands_buffer_length {s : State} (h : BlockInv s) (hk : s.kvalid = true) (dir : Direction)
    (buffer : List Byte) :
    ∃ t out, runCommands ((transformsOf dir buffer).map transformCommand) s = .next t ∧
      (out : List Byte).length = buffer.length ∧ t.responses = s.responses ++ out.map okByte :=
  ⟨_, _, runCommands_transforms_eq _ (h.holdsT_of_kvalid hk) hk rfl, by simp, rfl⟩

/-- Settles O57, for the two directions. -/
theorem outputLengthEqualsInputLength : Obligations.OutputLengthEqualsInputLength := by
  intro s buffer hinv hk op hop
  simp only [List.mem_cons, List.not_mem_nil, or_false] at hop
  rcases hop with rfl | rfl
  · rw [expand_decryptBuffer]
    exact runCommands_buffer_length hinv hk .decrypt buffer
  · rw [expand_encryptBuffer]
    exact runCommands_buffer_length hinv hk .encrypt buffer

end Sys2Proof.Machine
end

section
/-! ### What may come between two data bytes

The read-only commands and `TBUILD` keep a ready block ready with the same CipherState, and the next key update depends
on that alone (42_cipher_engine.md R111). -/

namespace Sys2Proof.Machine

/-- A guarded command answers a next state when what it guards does. -/
theorem requireKeys_completes {s : State} {go : Result} (h : s.kvalid = true → ∃ t, go = .next t) :
    ∃ t, requireKeys s go = .next t := by
  cases hk : s.kvalid with
  | true => rw [requireKeys_of_kvalid hk]; exact h hk
  | false => exact ⟨_, requireKeys_of_not_kvalid hk go⟩

/-- In a state that meets the invariant every command answers a next state (60_exceptions.md R147). -/
theorem BlockInv.exec_completes {s : State} (h : BlockInv s) (i : Instr) : ∃ t, exec i s = .next t := by
  have hupdate (b : Byte) (d : Word) (hk : s.kvalid = true) : ∃ t, updateAndRespond b d s = .next t :=
    ⟨_, updateAndRespond_of_holdsT (h.holdsT_of_kvalid hk) b d⟩
  cases i with
  | stat => exact ⟨_, rfl⟩
  | tbuild => exact ⟨_, rfl⟩
  | tread idx =>
    cases hv : s.tvalid with
    | true => exact ⟨_, exec_tread_of_tvalid hv (h.built hv idx)⟩
    | false => exact ⟨_, exec_tread_of_not_tvalid idx hv⟩
  | kinit => exact ⟨_, rfl⟩
  | kupd b => exact requireKeys_completes (hupdate _ _)
  | kstrm => exact requireKeys_completes fun _ => ⟨_, rfl⟩
  | kread0 => exact requireKeys_completes fun _ => ⟨_, rfl⟩
  | kread1 => exact requireKeys_completes fun _ => ⟨_, rfl⟩
  | kread2 => exact requireKeys_completes fun _ => ⟨_, rfl⟩
  | dec c => exact requireKeys_completes (hupdate _ _)
  | enc p => exact requireKeys_completes (hupdate _ _)

/-- The commands that R111 allows between two data bytes. -/
def MayComeBetween (i : Instr) : Prop :=
  i ∈ ([.stat, .kstrm, .kread0, .kread1, .kread2, .tbuild] : List Instr) ∨ ∃ idx, i = .tread idx

/-- No such command writes a key register or `KVALID`. -/
theorem keys_of_mayComeBetween {i : Instr} {s t : State} (hi : MayComeBetween i) (h : exec i s = .next t) :
    keysOf t = keysOf s ∧ t.kvalid = s.kvalid := by
  cases effect_of_exec h with
  | answered r => exact ⟨rfl, rfl⟩
  | advanced k d ready which => obtain ⟨b, rfl | rfl | rfl⟩ := which <;> simp [MayComeBetween] at hi
  | built which => exact ⟨rfl, rfl⟩
  | initialised which => subst which; simp [MayComeBetween] at hi

/-- A list of such commands completes, and keeps the CipherState. -/
theorem runCommands_of_mayComeBetween {s : State} {is : List Instr} (h : BlockInv s)
    (his : ∀ i ∈ is, MayComeBetween i) :
    ∃ t, runCommands is s = .next t ∧ keysOf t = keysOf s ∧ t.kvalid = s.kvalid := by
  induction is generalizing s with
  | nil => exact ⟨_, runCommands_nil s, rfl, rfl⟩
  | cons i is ih =>
    obtain ⟨hi, his⟩ := List.forall_mem_cons.1 his
    obtain ⟨u, hu⟩ := h.exec_completes i
    obtain ⟨hkeys, hk⟩ := keys_of_mayComeBetween hi hu
    obtain ⟨t, ht, hkeys', hk'⟩ := ih (h.of_exec hu) his
    exact ⟨t, (runCommands_cons is hu).trans ht, hkeys'.trans hkeys, hk'.trans hk⟩

/-- What a key update answers and leaves in a ready block depends on the CipherState alone. -/
theorem exec_keyUpdate_of_keys {j : Instr} {b : Byte} (hj : j ∈ ([.kupd b, .dec b, .enc b] : List Instr)) (k : Keys) :
    ∃ k' r, ∀ s : State, TableHoldsT s.table → s.kvalid = true → keysOf s = k →
      exec j s = .next (advancedTo k' [r] s) := by
  simp only [List.mem_cons, List.not_mem_nil, or_false] at hj
  rcases hj with rfl | rfl | rfl
  · exact ⟨advance k b, ⟨.ok, 0⟩, fun s hT hk hkeys => hkeys ▸ exec_kupd_of_ready hT hk b⟩
  · exact ⟨_, _, fun s hT hk hkeys => exec_transformCommand_of_keys hT hk hkeys (.decrypt, b)⟩
  · exact ⟨_, _, fun s hT hk hkeys => exec_transformCommand_of_keys hT hk hkeys (.encrypt, b)⟩

/-- Settles O56: two chunks are one run of commands cut in two; and the commands between two data bytes keep the
CipherState, on which alone the next key update depends. -/
theorem chunksAndReadsMakeNoDifference : Obligations.ChunksAndReadsMakeNoDifference := by
  refine ⟨fun s t first second => ⟨fun h => ?_, fun h => ?_⟩, fun s between b hinv hk hbetween => ?_⟩
  · rw [expand, List.map_append]
    exact runCommands_append (expand (.decryptBuffer second)) h
  · rw [expand, List.map_append]
    exact runCommands_append (expand (.encryptBuffer second)) h
  · obtain ⟨t, hrun, hkeys, hkt⟩ := runCommands_of_mayComeBetween hinv hbetween
    refine ⟨t, hrun, hkeys, fun j hj => ?_⟩
    obtain ⟨k, r, hexec⟩ := exec_keyUpdate_of_keys hj (keysOf s)
    have hready := hkt.trans hk
    exact ⟨_, _, r, hexec s (hinv.holdsT_of_kvalid hk) hk rfl,
      hexec t ((hinv.of_runCommands hrun).holdsT_of_kvalid hready) hready hkeys, rfl, rfl, rfl⟩

end Sys2Proof.Machine
end

section
/-! ### The status and register-read commands

What `STAT`, `KREAD0`, `KREAD1` and `KREAD2` answer, and which values `STATUS` takes (43_status_access.md R130 to
R133). -/

namespace Sys2Proof.Machine

/-- `STAT` answers `OK` with `STATUS` in every state (43_status_access.md R130). -/
theorem exec_stat (s : State) : exec .stat s = .next (respond .ok (status s) s) := rfl

/-- Two bits side by side, widened to 32, as a number. -/
theorem setWidth_ofBool_append_ofBool (hi lo : Bool) :
    (BitVec.ofBool hi ++ BitVec.ofBool lo).setWidth 32 = BitVec.ofNat 32 (lo.toNat + 2 * hi.toNat) := by
  cases hi <;> cases lo <;> rfl

/-- `STATUS` as a number: `TVALID` in bit 0, `KVALID` in bit 1 (10_state.md R28). -/
theorem status_eq_ofNat (s : State) : status s = BitVec.ofNat 32 (s.tvalid.toNat + 2 * s.kvalid.toNat) :=
  setWidth_ofBool_append_ofBool s.kvalid s.tvalid

/-- `STATUS` is never 2 where the key registers need the table: with `KVALID` set it is 3, otherwise it is `TVALID`
(10_state.md R30, 43_status_access.md R130). -/
theorem status_values {s : State} (h : s.kvalid = true → s.tvalid = true) :
    status s = 0 ∨ status s = 1 ∨ status s = 3 := by
  rw [status_eq_ofNat]
  cases hk : s.kvalid with
  | true => rw [h hk]; exact .inr (.inr rfl)
  | false =>
    cases s.tvalid with
    | false => exact .inl rfl
    | true => exact .inr (.inl rfl)

/-- Settles O17: `STAT` answers `STATUS`, which is the number of the two flags; the value 2 would be a valid CipherState
without a table. -/
theorem statAnswersTheFlags : Obligations.StatAnswersTheFlags := by
  refine fun s => ⟨?_, fun hinv => ⟨status_eq_ofNat s, status_values hinv.keysNeedTable⟩⟩
  rw [exec_stat, status_eq_ofNat, respond]

/-- Settles O24, by the check of `KVALID`: passed, each read answers its own register; failed, each raises `E_NOKEY`. -/
theorem kreadsAnswerTheirRegister : Obligations.KreadsAnswerTheirRegister := fun _ =>
  ⟨fun hk => ⟨requireKeys_of_kvalid hk _, requireKeys_of_kvalid hk _, requireKeys_of_kvalid hk _⟩,
    fun hk => ⟨requireKeys_of_not_kvalid hk _, requireKeys_of_not_kvalid hk _, requireKeys_of_not_kvalid hk _⟩⟩

end Sys2Proof.Machine
end

section
/-! ### Which words decode

A word decodes exactly when a row of the opcode map matches it (30_encoding.md R63 to R66). -/

namespace Sys2Proof

/-- A word that the zero check passes is that of the command (30_encoding.md R64). -/
theorem encode_of_noOperand {i j : Instr} {opc opd : Byte} (hi : encode i = joinFields opc 0)
    (h : noOperand i opd = .ok j) : encode j = joinFields opc opd := by
  by_cases hopd : opd = 0
  · rw [hopd, noOperand_zero] at h
    cases h
    rw [hi, hopd]
  · rw [noOperand_of_ne_zero i hopd] at h
    cases h

/-- Fields that decode are those of the command they decode to, opcode by opcode: where the command takes no operand, the
zero check has passed. -/
theorem encode_of_decodeFields {opc opd : Byte} {i : Instr} (h : decodeFields opc opd = .ok i) :
    encode i = joinFields opc opd := by
  unfold decodeFields at h
  obtain ⟨rfl, h⟩ | ⟨-, h⟩ := ite_eq_iff.1 h
  · exact encode_of_noOperand rfl h
  obtain ⟨rfl, h⟩ | ⟨-, h⟩ := ite_eq_iff.1 h
  · exact encode_of_noOperand rfl h
  obtain ⟨rfl, h⟩ | ⟨-, h⟩ := ite_eq_iff.1 h
  · cases h; rfl
  obtain ⟨rfl, h⟩ | ⟨-, h⟩ := ite_eq_iff.1 h
  · exact encode_of_noOperand rfl h
  obtain ⟨rfl, h⟩ | ⟨-, h⟩ := ite_eq_iff.1 h
  · cases h; rfl
  obtain ⟨rfl, h⟩ | ⟨-, h⟩ := ite_eq_iff.1 h
  · exact encode_of_noOperand rfl h
  obtain ⟨rfl, h⟩ | ⟨-, h⟩ := ite_eq_iff.1 h
  · exact encode_of_noOperand rfl h
  obtain ⟨rfl, h⟩ | ⟨-, h⟩ := ite_eq_iff.1 h
  · exact encode_of_noOperand rfl h
  obtain ⟨rfl, h⟩ | ⟨-, h⟩ := ite_eq_iff.1 h
  · exact encode_of_noOperand rfl h
  obtain ⟨rfl, h⟩ | ⟨-, h⟩ := ite_eq_iff.1 h
  · cases h; rfl
  obtain ⟨rfl, h⟩ | ⟨-, h⟩ := ite_eq_iff.1 h
  · cases h; rfl
  cases h

/-- A word that decodes is that of the command it decodes to. -/
theorem encode_of_decode {w : CmdWord} {i : Instr} (h : decode w = .ok i) : encode i = w :=
  (encode_of_decodeFields h).trans (joinFields_fields w)

/-- The rows of the commands without an operand compare the whole word. -/
theorem and_fullMask (w : CmdWord) : w &&& 0xFFFF = w := BitVec.and_allOnes

/-- The rows of the commands with an operand compare the opcode and leave the operand field free. -/
theorem eq_joinFields_of_and_opcodeMask {w : CmdWord} {opc : Byte} (h : w &&& 0xFF00 = joinFields opc 0) :
    w = joinFields opc (opdOf w) := by
  have hopc : opcOf w = opc := calc
    opcOf w = opcOf w &&& opcOf 0xFF00 := BitVec.and_allOnes.symm
    _ = opcOf (w &&& 0xFF00) := BitVec.extractLsb'_and.symm
    _ = opc := by rw [h, opcOf_joinFields]
  rw [← hopc, joinFields_fields]

/-- A word that a row matches is the word of a command. -/
theorem exists_encode_of_row {w : CmdWord} {r : OpcodeRow} (hr : r ∈ opcodeMap) (h : w &&& r.mask = r.pattern) :
    ∃ i, w = encode i := by
  simp only [opcodeMap, List.mem_cons, List.not_mem_nil, or_false] at hr
  rcases hr with rfl | rfl | rfl | rfl | rfl | rfl | rfl | rfl | rfl | rfl | rfl
  · exact ⟨.stat, (and_fullMask w).symm.trans h⟩
  · exact ⟨.tbuild, (and_fullMask w).symm.trans h⟩
  · exact ⟨.tread _, eq_joinFields_of_and_opcodeMask h⟩
  · exact ⟨.kinit, (and_fullMask w).symm.trans h⟩
  · exact ⟨.kupd _, eq_joinFields_of_and_opcodeMask h⟩
  · exact ⟨.kstrm, (and_fullMask w).symm.trans h⟩
  · exact ⟨.kread0, (and_fullMask w).symm.trans h⟩
  · exact ⟨.kread1, (and_fullMask w).symm.trans h⟩
  · exact ⟨.kread2, (and_fullMask w).symm.trans h⟩
  · exact ⟨.dec _, eq_joinFields_of_and_opcodeMask h⟩
  · exact ⟨.enc _, eq_joinFields_of_and_opcodeMask h⟩

open Laws in
/-- Every command's word is selected by the row of its mnemonic and no other (30_encoding.md R63). -/
theorem selectedByOwnRow (i : Instr) : SelectedByOwnRow.Statement i := by
  cases i with
  | stat => exact SelectedByOwnRow.stat
  | tbuild => exact SelectedByOwnRow.tbuild
  | tread idx => exact SelectedByOwnRow.tread idx
  | kinit => exact SelectedByOwnRow.kinit
  | kupd b => exact SelectedByOwnRow.kupd b
  | kstrm => exact SelectedByOwnRow.kstrm
  | kread0 => exact SelectedByOwnRow.kread0
  | kread1 => exact SelectedByOwnRow.kread1
  | kread2 => exact SelectedByOwnRow.kread2
  | dec c => exact SelectedByOwnRow.dec c
  | enc p => exact SelectedByOwnRow.enc p

/-- Some row matches the word of a command. -/
theorem exists_row_encode (i : Instr) : ∃ r ∈ opcodeMap, encode i &&& r.mask = r.pattern := by
  have hmem : i.mnemonic ∈ (opcodeMap.filter (·.selects (encode i))).map OpcodeRow.mnemonic := by
    rw [selectedByOwnRow i]
    exact List.mem_singleton_self _
  obtain ⟨r, hr, -⟩ := List.mem_map.1 hmem
  obtain ⟨hrow, hsel⟩ := List.mem_filter.1 hr
  exact ⟨r, hrow, beq_iff_eq.1 hsel⟩

/-- A word decodes exactly when some row matches it (30_encoding.md R65, R66). -/
theorem decode_eq_ok_iff_row (w : CmdWord) :
    (∃ i, decode w = .ok i) ↔ ∃ r ∈ opcodeMap, w &&& r.mask = r.pattern := by
  constructor
  · rintro ⟨i, hi⟩
    rw [← encode_of_decode hi]
    exact exists_row_encode i
  · rintro ⟨r, hr, hw⟩
    obtain ⟨i, rfl⟩ := exists_encode_of_row hr hw
    exact ⟨i, decode_encode i⟩

end Sys2Proof
end

section
/-! ### Error responses

Which status a command or a word answers with, in which state, and that an error writes nothing (60_exceptions.md R141
to R144). -/

namespace Sys2Proof.Machine

/-- The three ways a command ends in a next state: an answer `OK`, or one of the two errors a command can raise. -/
inductive Answer (i : Instr) (s : State) : State → Prop
  /-- `OK`, with whatever the command writes. -/
  | ok {t : State} (d : Word) (responses : t.responses = s.responses ++ [⟨.ok, d⟩]) : Answer i s t
  /-- `E_NOKEY` (60_exceptions.md R142). -/
  | noKey (unready : s.kvalid = false) : Answer i s (raise .noKey s)
  /-- `E_NOTABLE` (60_exceptions.md R143). -/
  | noTable (unbuilt : s.tvalid = false) (which : ∃ idx, i = .tread idx) : Answer i s (raise .noTable s)

/-- A guarded command answers as what it guards, or `E_NOKEY`. -/
theorem answer_of_requireKeys {i : Instr} {s t : State} {go : Result} (hgo : go = .next t → Answer i s t)
    (h : requireKeys s go = .next t) : Answer i s t := by
  cases hk : s.kvalid with
  | true =>
    rw [requireKeys_of_kvalid hk] at h
    exact hgo h
  | false =>
    rw [requireKeys_of_not_kvalid hk] at h
    cases h
    exact .noKey hk

/-- A read answers `OK`. -/
theorem answer_of_read {i : Instr} {s t : State} {d : Word} (h : (.next (respond .ok d s) : Result) = .next t) :
    Answer i s t := by
  cases h
  exact .ok d rfl

/-- A key update that answers a next state answers `OK`. -/
theorem answer_of_updateAndRespond {i : Instr} {s t : State} {b : Byte} {d : Word}
    (h : updateAndRespond b d s = .next t) : Answer i s t :=
  .ok d (congrArg State.responses (updateAndRespond_eq_next h))

/-- How a command that answers a next state answered. -/
theorem answer_of_exec {i : Instr} {s t : State} (h : exec i s = .next t) : Answer i s t := by
  cases i with
  | stat => exact answer_of_read h
  | tbuild => cases h; exact .ok 0 rfl
  | tread idx =>
    cases hv : s.tvalid with
    | false =>
      rw [exec_tread_of_not_tvalid idx hv] at h
      cases h
      exact .noTable hv ⟨idx, rfl⟩
    | true =>
      cases hread : memRead s.table idx with
      | some v => exact answer_of_read ((exec_tread_of_tvalid hv hread).symm.trans h)
      | none => simp [exec, execTread, hv, hread] at h
  | kinit => cases h; exact .ok 0 (by cases hv : s.tvalid <;> simp)
  | kupd b => exact answer_of_requireKeys answer_of_updateAndRespond h
  | kstrm => exact answer_of_requireKeys answer_of_read h
  | kread0 => exact answer_of_requireKeys answer_of_read h
  | kread1 => exact answer_of_requireKeys answer_of_read h
  | kread2 => exact answer_of_requireKeys answer_of_read h
  | dec c => exact answer_of_requireKeys answer_of_updateAndRespond h
  | enc p => exact answer_of_requireKeys answer_of_updateAndRespond h

/-- The response put last is one response. -/
theorem response_unique {s t : State} {r r' : Response} (h : t.responses = s.responses ++ [r])
    (h' : t.responses = s.responses ++ [r']) : r = r' :=
  List.singleton_injective (List.append_cancel_left (h.symm.trans h'))

/-- No command answers `E_ILLEGAL`: that status is for words that are none. -/
theorem Answer.sts_ne_illegal {i : Instr} {s t : State} {r : Response} (h : Answer i s t)
    (hr : t.responses = s.responses ++ [r]) : r.sts ≠ .illegal := by
  cases h with
  | ok d hok => rw [response_unique hr hok]; exact nofun
  | noKey _ => rw [response_unique hr (raise_responses .noKey s)]; decide
  | noTable _ _ => rw [response_unique hr (raise_responses .noTable s)]; decide

/-- `E_NOTABLE` is for `TREAD` with `TVALID` clear (60_exceptions.md R143). -/
theorem Answer.tread_of_noTable {i : Instr} {s t : State} {r : Response} (h : Answer i s t)
    (hr : t.responses = s.responses ++ [r]) (hsts : r.sts = .noTable) : s.tvalid = false ∧ ∃ idx, i = .tread idx := by
  cases h with
  | ok d hok => cases response_unique hr hok; cases hsts
  | noKey _ => cases response_unique hr (raise_responses .noKey s); cases hsts
  | noTable unbuilt which => exact ⟨unbuilt, which⟩

/-- A state that raising an error left, by its response: the data is 0 and nothing else was written
(60_exceptions.md R144). -/
theorem raise_eq_of_response {s : State} {e : Status} {r : Response}
    (hr : (raise e s).responses = s.responses ++ [r]) :
    r.dat = 0 ∧ raise e s = { s with responses := s.responses ++ [r] } := by
  cases response_unique hr (raise_responses e s)
  exact ⟨rfl, rfl⟩

/-- A command's error response carries 0 and nothing else was written (60_exceptions.md R144). -/
theorem Answer.eq_of_error {i : Instr} {s t : State} {r : Response} (h : Answer i s t)
    (hr : t.responses = s.responses ++ [r]) (hsts : r.sts ≠ .ok) :
    r.dat = 0 ∧ t = { s with responses := s.responses ++ [r] } := by
  cases h with
  | ok d hok => exact absurd (by rw [response_unique hr hok]) hsts
  | noKey _ => exact raise_eq_of_response hr
  | noTable _ _ => exact raise_eq_of_response hr

/-- The step that takes a word that decodes runs the command. -/
theorem step_of_decode_ok {s : State} {w : CmdWord} {i : Instr} {rest : List HostAction}
    (hp : s.pending = .command w :: rest) (hw : decode w = .ok i) : step s = exec i { s with pending := rest } := by
  simp only [step, takeAction_of_pending hp, hw]

/-- The step that takes a word that does not decode raises `E_ILLEGAL` (60_exceptions.md R141). -/
theorem step_of_decode_error {s : State} {w : CmdWord} {e : DecodeError} {rest : List HostAction}
    (hp : s.pending = .command w :: rest) (hw : decode w = .error e) :
    step s = .next (raise .illegal { s with pending := rest }) := by
  simp only [step, takeAction_of_pending hp, hw, refuseIllegal]

/-- Settles O29: a word no row matches does not decode, so the step raises `E_ILLEGAL`; a word some row matches is run
as a command, and no command answers that status. -/
theorem illegalWordsAnswerIllegal : Obligations.IllegalWordsAnswerIllegal := by
  refine fun s w rest hp => ⟨fun hno => ?_, fun hrow t r hstep hr => ?_⟩
  · cases hw : decode w with
    | ok i =>
      obtain ⟨r, hr, hmatch⟩ := (decode_eq_ok_iff_row w).1 ⟨i, hw⟩
      exact absurd hmatch (hno r hr)
    | error e => exact step_of_decode_error hp hw
  · obtain ⟨i, hw⟩ := (decode_eq_ok_iff_row w).2 hrow
    rw [step_of_decode_ok hp hw] at hstep
    exact (answer_of_exec hstep).sts_ne_illegal hr

/-- Settles O31: `TREAD` with `TVALID` clear raises `E_NOTABLE`, and no other answer of a command has that status. -/
theorem onlyTreadRaisesNoTable : Obligations.OnlyTreadRaisesNoTable := by
  refine fun s i => ⟨?_, fun t r hexec hr hsts => (answer_of_exec hexec).tread_of_noTable hr hsts⟩
  rintro idx rfl hv
  exact exec_tread_of_not_tvalid idx hv

/-- Settles O32: an error is raised by a command or by the decoder, and raising writes the response alone. -/
theorem errorsChangeNothing : Obligations.ErrorsChangeNothing := by
  intro s t w rest r hp hstep hr hsts
  cases hw : decode w with
  | ok i =>
    rw [step_of_decode_ok hp hw] at hstep
    exact (answer_of_exec hstep).eq_of_error hr hsts
  | error e =>
    rw [step_of_decode_error hp hw] at hstep
    cases hstep
    exact raise_eq_of_response hr

/-- Settles O30: in all seven commands the check of `KVALID` comes first. -/
theorem keyCommandsNeedKeys : Obligations.KeyCommandsNeedKeys := by
  intro s b i hk hi
  simp only [List.mem_cons, List.not_mem_nil, or_false] at hi
  rcases hi with rfl | rfl | rfl | rfl | rfl | rfl | rfl <;> exact requireKeys_of_not_kvalid hk _

end Sys2Proof.Machine
end

section
/-! ### One step for each action of the host

The step that takes a command word is `step_of_decode_ok` or `step_of_decode_error`; these are the other three
(70_reset_and_hazards.md R160, R161; 30_encoding.md R71). -/

namespace Sys2Proof.Machine

/-- The step that takes a `RESET` is `resetBlock`, where the pending list is known. -/
theorem step_of_reset {s : State} {rest : List HostAction} (hp : s.pending = .reset :: rest) :
    step s = .next (resetBlock { s with pending := rest }) := by
  simp only [step, takeAction_of_pending hp]

/-- A reset during a command is `resetBlock`, without a look at the word (70_reset_and_hazards.md R161). -/
theorem step_of_resetDuring {s : State} {w : CmdWord} {rest : List HostAction}
    (hp : s.pending = .resetDuring w :: rest) : step s = .next (resetBlock { s with pending := rest }) := by
  simp only [step, takeAction_of_pending hp]

/-- With nothing pending the step leaves the state. -/
theorem step_of_idle {s : State} (hp : s.pending = []) : step s = .next s := by
  simp only [step, takeAction_of_idle hp]

end Sys2Proof.Machine
end

section
/-! ### Key bits that hold no CipherState

With `KVALID` set, two states the host cannot tell apart are one state; with it clear, the seven key-reading commands
raise `E_NOKEY` and the other four read no key register (10_state.md R25, 60_exceptions.md R142). -/

namespace Sys2Proof.Machine

theorem SameVisible.refl (s : State) : SameVisible s s := ⟨rfl, rfl, rfl, rfl, rfl, rfl, rfl, fun _ => rfl⟩

theorem SameOutcome.refl (o : Result) : SameOutcome o o := by
  cases o with
  | next s => exact SameVisible.refl s
  | fault e => exact rfl
  | refused e => exact rfl

/-- Readable key registers are among what the host sees. -/
theorem SameVisible.eq_of_kvalid {s t : State} (h : SameVisible s t) (hk : s.kvalid = true) : s = t := by
  obtain ⟨hparams, htable, htvalid, hkvalid, hpending, hresponses, hcount, hkeys⟩ := h
  obtain ⟨hkey0, hkey1, hkey2⟩ := Keys.mk.inj (hkeys hk)
  cases s
  cases t
  congr

/-- Updates that treat the visible fields alike keep them alike. -/
theorem SameVisible.respond {s t : State} (h : SameVisible s t) (e : Status) (d : Word) :
    SameVisible (respond e d s) (respond e d t) :=
  { h with responses := by rw [respond_responses, respond_responses, h.responses] }

theorem SameVisible.raise {s t : State} (h : SameVisible s t) (e : Status) : SameVisible (raise e s) (raise e t) :=
  h.respond e 0

theorem SameVisible.buildTable {s t : State} (h : SameVisible s t) : SameVisible (buildTable s) (buildTable t) :=
  { h with table := congrArg fillTable h.table, tvalid := rfl }

theorem SameVisible.loadInitialKeys {s t : State} (h : SameVisible s t) :
    SameVisible (loadInitialKeys s) (loadInitialKeys t) :=
  { h with kvalid := rfl, keys := fun _ => rfl }

theorem SameVisible.resetBlock {s t : State} (h : SameVisible s t) : SameVisible (resetBlock s) (resetBlock t) :=
  { h with
    table := by rw [resetBlock_table, resetBlock_table, h.params]
    tvalid := congrArg Params.tablePrebuilt h.params
    kvalid := rfl
    hiddenCount := congrArg (· + 3) h.hiddenCount
    keys := nofun }

theorem SameVisible.withPending {s t : State} (h : SameVisible s t) (rest : List HostAction) :
    SameVisible { s with pending := rest } { t with pending := rest } :=
  { h with pending := rfl }

/-- `STATUS` shows the flags alone. -/
theorem SameVisible.status {s t : State} (h : SameVisible s t) : status s = status t := by
  rw [status_eq_ofNat, status_eq_ofNat, h.tvalid, h.kvalid]

/-- A guarded command without a CipherState raises `E_NOKEY` in both states. -/
theorem SameVisible.requireKeys {s t : State} (h : SameVisible s t) (hk : s.kvalid = false) (go go' : Result) :
    SameOutcome (requireKeys s go) (requireKeys t go') := by
  rw [requireKeys_of_not_kvalid hk, requireKeys_of_not_kvalid (h.kvalid.symm.trans hk)]
  exact h.raise .noKey

theorem SameVisible.tread {s t : State} (h : SameVisible s t) (idx : Byte) :
    SameOutcome (exec (.tread idx) s) (exec (.tread idx) t) := by
  simp only [exec, execTread, ← h.table, ← h.tvalid]
  split
  · split
    · exact h.respond .ok _
    · exact rfl
  · exact h.raise .noTable

theorem SameVisible.kinit {s t : State} (h : SameVisible s t) : SameOutcome (exec .kinit s) (exec .kinit t) := by
  rw [exec_kinit, exec_kinit, ← h.tvalid]
  split
  · exact h.loadInitialKeys.respond .ok 0
  · exact h.buildTable.loadInitialKeys.respond .ok 0

/-- A command does the same in states the host cannot tell apart. -/
theorem SameVisible.exec {s t : State} (h : SameVisible s t) (i : Instr) : SameOutcome (exec i s) (exec i t) := by
  cases hk : s.kvalid with
  | true => rw [h.eq_of_kvalid hk]; exact .refl _
  | false =>
    cases i with
    | stat =>
      rw [exec_stat, exec_stat, h.status]
      exact h.respond .ok _
    | tbuild => exact h.buildTable.respond .ok 0
    | tread idx => exact h.tread idx
    | kinit => exact h.kinit
    | kupd | kstrm | kread0 | kread1 | kread2 | dec | enc => exact h.requireKeys hk _ _

/-- Settles O51, by the first pending action, which is the same in both states; a reset and an illegal word look at no
key register. -/
theorem hiddenKeyBitsAreNeverSeen : Obligations.HiddenKeyBitsAreNeverSeen := by
  intro s t h
  cases hs : s.pending with
  | nil =>
    rw [step_of_idle hs, step_of_idle (h.pending.symm.trans hs)]
    exact h
  | cons a rest =>
    have ht := h.pending.symm.trans hs
    have hrest := h.withPending rest
    cases a with
    | reset =>
      rw [step_of_reset hs, step_of_reset ht]
      exact hrest.resetBlock
    | resetDuring w =>
      rw [step_of_resetDuring hs, step_of_resetDuring ht]
      exact hrest.resetBlock
    | command w =>
      cases hw : decode w with
      | ok i =>
        rw [step_of_decode_ok hs hw, step_of_decode_ok ht hw]
        exact hrest.exec i
      | error e =>
        rw [step_of_decode_error hs hw, step_of_decode_error ht hw]
        exact hrest.raise .illegal

end Sys2Proof.Machine
end

section
/-! ### One row for each word

Every row of the opcode map is that of one mnemonic, so the row that selects a word is that of the command it decodes
to; and the legal words are the words of the commands (30_encoding.md R63, R65). -/

namespace Sys2Proof

/-- The mnemonic names the row. -/
theorem row_eq_of_mnemonic {r r' : OpcodeRow} (hr : r ∈ opcodeMap) (hr' : r' ∈ opcodeMap)
    (h : r.mnemonic = r'.mnemonic) : r = r' :=
  List.inj_on_of_nodup_map (f := OpcodeRow.mnemonic) (by decide) hr hr' h

/-- A row matches a command's word exactly when it is the row of the command's mnemonic. -/
theorem row_matches_encode_iff {r : OpcodeRow} (hr : r ∈ opcodeMap) (i : Instr) :
    encode i &&& r.mask = r.pattern ↔ i.mnemonic = r.mnemonic := by
  have hrows (r' : OpcodeRow) (hr' : r' ∈ opcodeMap) (h : encode i &&& r'.mask = r'.pattern) :
      i.mnemonic = r'.mnemonic := by
    have hmem : r'.mnemonic ∈ (opcodeMap.filter (·.selects (encode i))).map OpcodeRow.mnemonic :=
      List.mem_map_of_mem (List.mem_filter.2 ⟨hr', beq_iff_eq.2 h⟩)
    rw [selectedByOwnRow i] at hmem
    exact (List.mem_singleton.1 hmem).symm
  refine ⟨hrows r hr, fun hi => ?_⟩
  obtain ⟨r', hr', hmatch⟩ := exists_row_encode i
  rwa [row_eq_of_mnemonic hr hr' (hi.symm.trans (hrows r' hr' hmatch))]

/-- Settles O1: the decoder reads each command's word back, operand included. -/
theorem decodeOfEncodeIsTheCommand : Obligations.DecodeOfEncodeIsTheCommand := decode_encode

/-- Settles O2: the decoder drops no bit of a word it accepts. -/
theorem encodeOfDecodeIsTheWord : Obligations.EncodeOfDecodeIsTheWord := fun _ _ => encode_of_decode

/-- Settles O3: a word that a row matches, or that decodes, is the word of a command, and its one row is that of the
mnemonic. -/
theorem wordDecodesWhenARowMatches : Obligations.WordDecodesWhenARowMatches := by
  intro w r hr
  constructor
  · intro h
    obtain ⟨i, rfl⟩ := exists_encode_of_row hr h
    exact ⟨i, decode_encode i, (row_matches_encode_iff hr i).1 h⟩
  · rintro ⟨i, hi, hmnemonic⟩
    rw [← encode_of_decode hi]
    exact (row_matches_encode_iff hr i).2 hmnemonic

/-- Settles O4: both rows are that of the mnemonic of the word's command. -/
theorem noWordMatchesTwoRows : Obligations.NoWordMatchesTwoRows := by
  intro w r r' hr hr' h h'
  obtain ⟨i, rfl⟩ := exists_encode_of_row hr h
  exact row_eq_of_mnemonic hr hr' (((row_matches_encode_iff hr i).1 h).symm.trans ((row_matches_encode_iff hr' i).1 h'))

/-- The commands with an operand, at one value of it (30_encoding.md R63). -/
def operandCommands (b : Byte) : List Instr := [.tread b, .kupd b, .dec b, .enc b]

/-- Every command with every operand. -/
def allCommands : List Instr := noOperandCommands ++ Machine.tableIndices.flatMap operandCommands

theorem mem_allCommands (i : Instr) : i ∈ allCommands := by
  have hoperand (b : Byte) (h : i ∈ operandCommands b) : i ∈ allCommands :=
    List.mem_append_right _ (List.mem_flatMap.2 ⟨b, Machine.mem_tableIndices b, h⟩)
  cases i with
  | stat | tbuild | kinit | kstrm | kread0 | kread1 | kread2 => exact List.mem_append_left _ (by decide)
  | tread b | kupd b | dec b | enc b => exact hoperand b (by simp [operandCommands])

theorem nodup_tableIndices : Machine.tableIndices.Nodup := by
  refine List.Nodup.map_on (fun m hm n hn h => ?_) List.nodup_range
  have hlt {k : Nat} (hk : k ∈ List.range Config.tableEntries) : k < 2 ^ 8 := List.mem_range.1 hk
  rw [← BitVec.toNat_inj, BitVec.toNat_ofNat, BitVec.toNat_ofNat] at h
  rwa [Nat.mod_eq_of_lt (hlt hm), Nat.mod_eq_of_lt (hlt hn)] at h

/-- No command is listed twice: the operand tells the four commands of one operand from those of another. -/
theorem nodup_allCommands : allCommands.Nodup := by
  have hoperand : (Machine.tableIndices.flatMap operandCommands).Nodup := by
    refine List.nodup_flatMap.2 ⟨fun b _ => by simp [operandCommands], nodup_tableIndices.imp fun hne i hi hj => ?_⟩
    simp only [operandCommands, List.mem_cons, List.not_mem_nil, or_false] at hi hj
    rcases hi with rfl | rfl | rfl | rfl <;> simp [hne] at hj
  refine List.Nodup.append (by decide) hoperand fun i hi hj => ?_
  obtain ⟨b, -, hb⟩ := List.mem_flatMap.1 hj
  simp only [operandCommands, List.mem_cons, List.not_mem_nil, or_false] at hb
  rcases hb with rfl | rfl | rfl | rfl <;> simp [noOperandCommands] at hi

/-- Seven commands without an operand, and four with 256 operands each. -/
theorem length_allCommands : allCommands.length = 1031 := by
  have hfour : (fun b => (operandCommands b).length) = fun _ => 4 := rfl
  have hindices : Machine.tableIndices.length = 256 := (List.length_map _).trans List.length_range
  rw [allCommands, List.length_append, List.length_flatMap, hfour, List.map_const', hindices, List.sum_replicate]
  rfl

/-- The legal words are the words of the commands (30_encoding.md R65). -/
theorem legalWord_iff (w : CmdWord) : legalWord w = true ↔ ∃ i, encode i = w := by
  have hrow : legalWord w = true ↔ ∃ r ∈ opcodeMap, w &&& r.mask = r.pattern := by
    simp only [legalWord, List.any_eq_true, OpcodeRow.selects, beq_iff_eq]
  rw [hrow]
  constructor
  · rintro ⟨r, hr, h⟩
    exact (exists_encode_of_row hr h).imp fun _ => Eq.symm
  · rintro ⟨i, rfl⟩
    exact exists_row_encode i

theorem encode_injective : Function.Injective encode := fun i j h =>
  Except.ok.inj (((decode_encode i).symm.trans (congrArg decode h)).trans (decode_encode j))

/-- Settles O5: the legal numbers below 65536 are, up to order, the words of the commands. -/
theorem legalWordsNumber1031 : Obligations.LegalWordsNumber1031 := by
  have hwords : ((List.range 65536).filter fun n => legalWord (BitVec.ofNat 16 n)).Perm
      (allCommands.map fun i => (encode i).toNat) := by
    refine (List.perm_ext_iff_of_nodup (List.nodup_range.filter _) ?_).2 fun n => ?_
    · exact nodup_allCommands.map (BitVec.toNat_injective.comp encode_injective)
    · simp only [List.mem_filter, List.mem_range, legalWord_iff, List.mem_map]
      constructor
      · rintro ⟨hn, i, hi⟩
        exact ⟨i, mem_allCommands i, by rw [hi, BitVec.toNat_ofNat, Nat.mod_eq_of_lt hn]⟩
      · rintro ⟨i, -, rfl⟩
        exact ⟨(encode i).isLt, i, by rw [BitVec.ofNat_toNat, BitVec.setWidth_eq]⟩
  exact hwords.length_eq.trans ((List.length_map _).trans length_allCommands)

/-- Settles O7: each word is the encoding of the command listed, or fails the decoder's checks. -/
theorem sampleWordsDecodeAsListed : Obligations.SampleWordsDecodeAsListed :=
  ⟨decode_encode .stat, decode_encode .tbuild, decode_encode (.tread 0xFF), decode_encode .kinit,
    decode_encode (.kupd 0x74), decode_encode .kstrm, decode_encode .kread2, decode_encode (.dec 0xFF),
    decode_encode (.enc 0xAB), by decide, by decide, by decide⟩

/-- Settles O8: the word is the code followed by the data. -/
theorem responseWordFields : Obligations.ResponseWordFields :=
  ⟨fun _ => ⟨BitVec.extractLsb'_append_eq_left, BitVec.extractLsb'_append_eq_right⟩, rfl, rfl, rfl, rfl⟩

end Sys2Proof
end

section
/-! ### The table as a function

A round is linear over XOR and loses no bit, and so is an entry (41_crc_table.md R80, R81). -/

namespace Sys2Proof.Machine

/-- The polynomial where a bit is set, 0 where it is clear. -/
def polyWhen (b : Bool) : Word := if b then Config.poly else 0

theorem polyWhen_xor (a b : Bool) : polyWhen (a ^^ b) = polyWhen a ^^^ polyWhen b := by
  cases a <;> cases b <;> rfl

/-- A round as one XOR (41_crc_table.md R80). -/
theorem crcRound_eq_xor (c : Word) : crcRound c = (c >>> 1) ^^^ polyWhen (c.getLsbD 0) := by
  cases h : c.getLsbD 0 with
  | true => exact crcRound_of_bit0 h
  | false => exact (crcRound_of_not_bit0 h).trans BitVec.xor_zero.symm

theorem crcRound_xor (a b : Word) : crcRound (a ^^^ b) = crcRound a ^^^ crcRound b := by
  simp only [crcRound_eq_xor, BitVec.getLsbD_xor, polyWhen_xor, BitVec.ushiftRight_xor_distrib]
  ac_rfl

theorem crcRounds_xor (n : Nat) (a b : Word) : crcRounds n (a ^^^ b) = crcRounds n a ^^^ crcRounds n b := by
  induction n generalizing a b with
  | zero => rfl
  | succ n ih => rw [crcRounds, crcRound_xor, ih, crcRounds, crcRounds]

/-- Settles O11: widening the index is linear, and each of the eight rounds is. -/
theorem crcEntryOfXorIsXor : Obligations.CrcEntryOfXorIsXor := by
  intro i j
  rw [crcEntry, zext32, BitVec.setWidth_xor, crcRounds_xor]
  rfl

/-- Bit 31 of a round is bit 0 before it: the shift brings in a zero, and bit 31 of the polynomial is set. -/
theorem getLsbD_31_crcRound (c : Word) : (crcRound c).getLsbD 31 = c.getLsbD 0 := by
  have hpoly : (0xEDB88320 : Word).getLsbD 31 = true := rfl
  rw [crcRoundBitByBit c 31 (by decide), BitVec.getLsbD_of_ge c 32 (by decide), hpoly, Bool.false_xor, Bool.and_true]

/-- A round can be undone: bit 0 is read back in bit 31, and then every other bit. -/
theorem crcRound_injective : Function.Injective crcRound := by
  intro a b h
  have hbit0 : a.getLsbD 0 = b.getLsbD 0 := by rw [← getLsbD_31_crcRound, h, getLsbD_31_crcRound]
  refine BitVec.eq_of_getLsbD_eq fun j hj => ?_
  cases j with
  | zero => exact hbit0
  | succ j =>
    have hbit : (crcRound a).getLsbD j = (crcRound b).getLsbD j := by rw [h]
    rw [crcRoundBitByBit a j (by omega), crcRoundBitByBit b j (by omega), hbit0] at hbit
    exact Bool.xor_left_inj.1 hbit

theorem zext32_injective : Function.Injective zext32 :=
  Function.LeftInverse.injective (g := lowByte) lowByte_zext32

/-- Settles O12: an entry is eight rounds, each of which can be undone. -/
theorem crcEntriesAreDistinct : Obligations.CrcEntriesAreDistinct := by
  intro i j h
  rw [crcEntry, crcEntry, crcRounds_eq_iterate, crcRounds_eq_iterate] at h
  exact zext32_injective (crcRound_injective.iterate _ h)

end Sys2Proof.Machine
end

section
/-! ### The corners of the cipher engine

Which bits of `key2` the keystream byte depends on, where it is 0, and a byte forth and back (42_cipher_engine.md R101
and section 4). -/

namespace Sys2Proof.Machine

/-- The keystream byte by the low half of `key2` (42_cipher_engine.md R101). -/
def keystreamOfHalf (h : BitVec 16) : Byte :=
  ((h ||| Config.ksOr).setWidth 32 * ((h ||| Config.ksOr) ^^^ 0x0001).setWidth 32).extractLsb' 8 8

theorem keystream_eq_keystreamOfHalf (s : State) : keystream s = keystreamOfHalf (lowHalf s.key2) := rfl

/-- The low half of a word is its bits 15:2 and its bits 1:0. -/
theorem lowHalf_eq_append (v : Word) : lowHalf v = v.extractLsb' 2 14 ++ v.extractLsb' 0 2 :=
  (BitVec.extractLsb'_append_extractLsb'_eq_extractLsb' (start₁ := 0) (len₁ := 2) (len₂ := 14) rfl).symm

/-- Bits 1:0 do not count: bit 1 is set in any case, and the two values of bit 0 give the same two factors, in either
order. -/
theorem keystreamOfHalf_append (hi : BitVec 14) (lo : BitVec 2) :
    keystreamOfHalf (hi ++ lo) = keystreamOfHalf (hi ++ 0#2) := by
  have hor (x : BitVec 2) : (hi ++ x) ||| Config.ksOr = hi ++ (x ||| 2#2) := by
    have hconst : Config.ksOr = 0#14 ++ 2#2 := rfl
    rw [hconst, BitVec.or_append, BitVec.or_zero]
  have hxor (x : BitVec 2) : (hi ++ x) ^^^ 0x0001 = hi ++ (x ^^^ 1#2) := by
    have hconst : (0x0001 : BitVec 16) = 0#14 ++ 1#2 := rfl
    rw [hconst, BitVec.xor_append, BitVec.xor_zero]
  have hfactors : ∀ x : BitVec 2,
      x ||| 2#2 = 2#2 ∧ (x ||| 2#2) ^^^ 1#2 = 3#2 ∨ x ||| 2#2 = 3#2 ∧ (x ||| 2#2) ^^^ 1#2 = 2#2 := by decide
  have hzero : 0#2 ||| 2#2 = 2#2 ∧ 2#2 ^^^ 1#2 = 3#2 := by decide
  simp only [keystreamOfHalf, hor, hxor, hzero]
  obtain ⟨h, h'⟩ | ⟨h, h'⟩ := hfactors lo
  · rw [h', h]
  · rw [h', h, BitVec.mul_comm]

/-- Settles O16: the low half is bits 15:2 and bits 1:0, and the latter do not count. -/
theorem keystreamDependsOnBits15To2 : Obligations.KeystreamDependsOnBits15To2 := by
  intro s t h
  rw [keystream_eq_keystreamOfHalf, keystream_eq_keystreamOfHalf, lowHalf_eq_append, lowHalf_eq_append, h,
    keystreamOfHalf_append, keystreamOfHalf_append _ (t.key2.extractLsb' 0 2)]

/-- Settles O27: `DEC` is the inverse transform, in the CipherState `ENC` started from. -/
theorem decUndoesEncByteByByte : Obligations.DecUndoesEncByteByByte := by
  intro s t p r hinv hk hexec hr
  have hT := hinv.holdsT_of_kvalid hk
  cases (exec_transformCommand_of_keys hT hk rfl (.encrypt, p)).symm.trans hexec
  cases response_unique (s := s) hr rfl
  have hback := exec_transformCommand_of_keys hT hk rfl (Direction.encrypt.inverse, outputByte (keysOf s) (.encrypt, p))
  rw [outputByte_inverse, nextKeys_inverse] at hback
  rw [byte_okByte]
  exact hback

/-- Where the low half of `key2` is 0x0000 or 0xFFFF the keystream byte is 0 (42_cipher_engine.md section 4). -/
theorem keystream_eq_zero {s : State} (h : s.key2.setWidth 16 = 0 ∨ s.key2.setWidth 16 = 0xFFFF) :
    keystream s = 0 := by
  have hhalf : lowHalf s.key2 = s.key2.setWidth 16 := (BitVec.setWidth_eq_extractLsb' (by decide)).symm
  rw [keystream_eq_keystreamOfHalf, hhalf]
  rcases h with h | h
  · rw [h]; decide
  · rw [h]; decide

/-- A keystream byte of 0 gives the input back and advances the CipherState with it, in both directions. -/
theorem exec_transformCommand_of_keystream_zero {s : State} (hinv : BlockInv s) (hk : s.kvalid = true)
    (hzero : keystream s = 0) (d : Transform) :
    exec (transformCommand d) s = .next (advancedTo (advance (keysOf s) d.2) [okByte d.2] s) := by
  have hout : outputByte (keysOf s) d = d.2 := by
    rw [outputByte, ← keystream_eq_keystreamOf, hzero]
    exact BitVec.xor_zero
  have hnext : nextKeys (keysOf s) d = advance (keysOf s) d.2 := by
    rw [nextKeys, hout]
    obtain ⟨_ | _, b⟩ := d <;> rfl
  rw [exec_transformCommand_of_keys (hinv.holdsT_of_kvalid hk) hk rfl, hout, hnext]

/-- Settles O28: in both cases the keystream byte is 0. -/
theorem outputMayEqualInput : Obligations.OutputMayEqualInput := by
  intro s b hinv hk h
  have hexec := exec_transformCommand_of_keystream_zero hinv hk (keystream_eq_zero h)
  exact ⟨_, _, hexec (.encrypt, b), hexec (.decrypt, b), rfl, rfl⟩

end Sys2Proof.Machine
end

section
/-! ### Frames of the commands

What each command leaves unchanged, from the four effects a command can have (10_state.md sections 1, 3 and 6;
60_exceptions.md section 9). -/

namespace Sys2Proof.Machine

/-- `KINIT` works on a built table as it is (42_cipher_engine.md R102). -/
theorem kinitTable_of_tvalid {s : State} (hv : s.tvalid = true) : (if s.tvalid then s else buildTable s) = s :=
  if_pos hv

/-- The table `KINIT` works on is built (42_cipher_engine.md R102). -/
theorem kinitTable_tvalid (s : State) : (if s.tvalid then s else buildTable s).tvalid = true := by
  split
  · assumption
  · rfl

/-- The builder, run or not, writes the table and `TVALID` alone (41_crc_table.md R84). -/
theorem kinitTable_frame (s : State) :
    ∃ m v, (if s.tvalid then s else buildTable s) = { s with table := m, tvalid := v } := by
  split
  · exact ⟨s.table, s.tvalid, rfl⟩
  · exact ⟨fillTable s.table, true, rfl⟩

/-- No command writes the parameter, what the host does next or the counter of free values, and each gives one
response. -/
theorem Effect.frame {i : Instr} {s t : State} (h : Effect i s t) :
    t.params = s.params ∧ t.pending = s.pending ∧ t.hiddenCount = s.hiddenCount ∧
      ∃ r, t.responses = s.responses ++ [r] := by
  cases h with
  | answered r => exact ⟨rfl, rfl, rfl, r, rfl⟩
  | advanced k d ready which => exact ⟨rfl, rfl, rfl, _, rfl⟩
  | built which => exact ⟨rfl, rfl, rfl, _, rfl⟩
  | initialised which =>
    obtain ⟨m, v, hframe⟩ := kinitTable_frame s
    rw [hframe]
    exact ⟨rfl, rfl, rfl, _, rfl⟩

/-- Settles O34: of the four effects these commands have only the first, an answer and nothing else. -/
theorem readOnlyCommandsFrame : Obligations.ReadOnlyCommandsFrame := by
  intro s t idx i hi hexec
  cases effect_of_exec hexec with
  | answered r => exact ⟨fun _ => rfl, rfl⟩
  | advanced k d ready which => obtain ⟨b, rfl | rfl | rfl⟩ := which <;> simp at hi
  | built which => subst which; simp at hi
  | initialised which => subst which; simp at hi

/-- Settles O35: these commands answer an error, or advance the CipherState and answer `OK`. -/
theorem keyUpdatesFrame : Obligations.KeyUpdatesFrame := by
  intro s t b i hi hexec
  cases effect_of_exec hexec with
  | answered r => exact ⟨fun _ => rfl, rfl⟩
  | advanced k d ready which => exact ⟨fun _ => rfl, rfl⟩
  | built which => subst which; simp at hi
  | initialised which => subst which; simp at hi

/-- Settles O36: `TBUILD` runs the builder; `KINIT` runs it on an unbuilt table alone and then loads the constants. -/
theorem buildersFrame : Obligations.BuildersFrame := by
  refine fun s t => ⟨fun h => ?_, fun h => ?_⟩
  · cases h
    rfl
  · cases h
    refine ⟨fun hv a => congrArg (fun u => memRead u.table a) (kinitTable_of_tvalid hv), ?_⟩
    obtain ⟨m, v, hframe⟩ := kinitTable_frame s
    rw [hframe]
    rfl

/-- Settles O37: an answer and the builder write no key register, `KINIT` loads the constants, and an advance needs
`KVALID`. -/
theorem keysWrittenByFourCommands : Obligations.KeysWrittenByFourCommands := by
  intro s t i hexec
  cases effect_of_exec hexec with
  | answered r => exact .inl rfl
  | advanced k d ready which => exact .inr (.inr ⟨ready, which⟩)
  | built which => exact .inl rfl
  | initialised which => exact .inr (.inl ⟨which, rfl⟩)

/-- Settles O38: an answer and an advance write no flag, `TBUILD` sets `TVALID`, and `KINIT` sets both flags. -/
theorem commandsNeverClearAFlag : Obligations.CommandsNeverClearAFlag := by
  intro s t i hexec
  have kept {b : Bool} {P : Prop} (h : b = false) (h' : b = true) : P := nomatch h.symm.trans h'
  cases effect_of_exec hexec with
  | answered r => exact ⟨id, id, kept, kept⟩
  | advanced k d ready which => exact ⟨id, id, kept, kept⟩
  | built which => exact ⟨fun _ => rfl, id, kept, fun _ _ => .inr which⟩
  | initialised which => exact ⟨fun _ => kinitTable_tvalid s, fun _ => rfl, fun _ _ => which, fun _ _ => .inl which⟩

/-- Settles O39: a built table is written only by `TBUILD`, which writes what it holds already. -/
theorem builtTableIsImmutable : Obligations.BuiltTableIsImmutable := by
  intro s t i hinv hv hexec
  have htable : t.table = s.table := by
    cases effect_of_exec hexec with
    | answered r => rfl
    | advanced k d ready which => rfl
    | built which => exact fillTable_of_holdsT hinv.wf (hinv.built hv)
    | initialised which => rw [kinitTable_of_tvalid hv, respond_table, loadInitialKeys_table]
  exact ⟨htable, fun a => by rw [htable]; exact hinv.built hv a⟩

end Sys2Proof.Machine
end

section
/-! ### Steps and reset

What a step does with each action of the host, and what a reset leaves (30_encoding.md R71,
70_reset_and_hazards.md R160, R161). -/

namespace Sys2Proof.Machine

/-- In a state that meets the invariant every word, legal or not, is answered by one response (30_encoding.md R71). -/
theorem step_answers_word {s : State} {w : CmdWord} {rest : List HostAction} (h : BlockInv s)
    (hp : s.pending = .command w :: rest) :
    ∃ t r, step s = .next t ∧ t.responses = s.responses ++ [r] ∧ t.pending = rest := by
  cases hw : decode w with
  | ok i =>
    have hrest : BlockInv { s with pending := rest } := h.congr rfl rfl rfl rfl
    obtain ⟨t, ht⟩ := hrest.exec_completes i
    obtain ⟨-, hpending, -, r, hr⟩ := (effect_of_exec ht).frame
    exact ⟨t, r, (step_of_decode_ok hp hw).trans ht, hr, hpending⟩
  | error e => exact ⟨_, _, step_of_decode_error hp hw, rfl, rfl⟩

/-- A run of words takes them one by one. -/
theorem run_answers_words {s : State} {ws : List CmdWord} (h : BlockInv s)
    (hp : s.pending = ws.map HostAction.command) :
    ∃ t rs, Host.Core.run Sys2Proof.core ws.length s = .next t ∧ t.responses = s.responses ++ rs ∧
      rs.length = ws.length ∧ t.pending = [] := by
  induction ws generalizing s with
  | nil => exact ⟨s, [], rfl, (List.append_nil _).symm, rfl, hp⟩
  | cons w ws ih =>
    obtain ⟨u, r, hstep, hr, hpending⟩ := step_answers_word h hp
    obtain ⟨t, rs, hrun, hrs, hlen, hdone⟩ := ih (h.of_step hstep) hpending
    refine ⟨t, r :: rs, (run_succ _ hstep).trans hrun, ?_, congrArg (· + 1) hlen, hdone⟩
    rw [hrs, hr, List.append_assoc, List.singleton_append]

/-- Settles O42: with the words pending, the run answers each in turn. -/
theorem oneResponsePerCommand : Obligations.OneResponsePerCommand := by
  intro s ws hinv
  rw [runActions, List.length_map]
  exact run_answers_words (s := { s with pending := ws.map HostAction.command }) (hinv.congr rfl rfl rfl rfl) rfl

/-- Settles O48: every command keeps the invariant, a reset establishes it, and nothing else writes a field it speaks
of. -/
theorem everyStepKeepsInv : Obligations.EveryStepKeepsInv := fun _ _ h hstep => h.of_step hstep

/-- Settles O43: the step is `resetBlock`, whose table is built or empty as the parameter says. -/
theorem resetClearsTheFlags : Obligations.ResetClearsTheFlags := by
  intro s rest hp
  refine ⟨_, step_of_reset hp, rfl, rfl, fun hpre i => ?_, fun hpre i => ?_, rfl, rfl, rfl⟩
  · rw [resetBlock_table, if_pos hpre]
    exact fillTable_holdsT [] i
  · rw [resetBlock_table, if_neg (Bool.eq_false_iff.1 hpre)]
    rfl

/-- A reset reads the parameter, the counter of free values and the host's two lists, and nothing else. -/
theorem resetBlock_congr {s t : State} (hparams : t.params = s.params) (hpending : t.pending = s.pending)
    (hcount : t.hiddenCount = s.hiddenCount) : resetBlock t = { resetBlock s with responses := t.responses } := by
  simp only [resetBlock, hparams, hpending, hcount]

/-- Settles O44: no command writes what a reset reads. -/
theorem resetForgetsTheCommand : Obligations.ResetForgetsTheCommand := by
  intro s t i hexec
  obtain ⟨hparams, hpending, hcount, -⟩ := (effect_of_exec hexec).frame
  exact resetBlock_congr hparams hpending hcount

/-- Settles O49, by the first pending action: a word is answered, a reset always completes, and with nothing pending the
state stays. -/
theorem noStepStops : Obligations.NoStepStops := by
  intro s hinv
  have hstep : ∃ t, step s = .next t := by
    cases hp : s.pending with
    | nil => exact ⟨s, step_of_idle hp⟩
    | cons a rest =>
      cases a with
      | reset => exact ⟨_, step_of_reset hp⟩
      | resetDuring w => exact ⟨_, step_of_resetDuring hp⟩
      | command w =>
        obtain ⟨t, -, ht, -⟩ := step_answers_word hinv hp
        exact ⟨t, ht⟩
  exact hstep.imp fun t ht => ⟨ht, hinv.of_step ht⟩

/-- Settles O40: the decoder's answer is the command that `exec` runs. -/
theorem stepRunsTheDecodedCommand : Obligations.StepRunsTheDecodedCommand := fun _ _ _ _ => step_of_decode_ok

/-- Settles O41: there is no first action to take. -/
theorem idleBlockWaits : Obligations.IdleBlockWaits := fun _ => step_of_idle

/-- Settles O45: both actions are `resetBlock` on the same state, which writes no response. -/
theorem resetWinsOverItsCommand : Obligations.ResetWinsOverItsCommand := by
  intro s t w rest hp hstep
  rw [step_of_resetDuring hp] at hstep
  cases hstep
  exact ⟨rfl, step_reset rest s⟩

/-- Settles O46: in the fields the invariant speaks of, the state after reset is what a `RESET` leaves of it. -/
theorem resetStateMeetsInv : Obligations.ResetStateMeetsInv := (resetBlock_inv State.reset).congr rfl rfl rfl rfl

/-- Settles O47: the values stand in `State.reset`. -/
theorem resetStateValues : Obligations.ResetStateValues := ⟨rfl, rfl, rfl, fun _ => rfl⟩

end Sys2Proof.Machine
end

section
/-! ### Several blocks

A step of one block reads and writes that block alone (60_exceptions.md R151). -/

namespace Sys2Proof.Machine

/-- The next state of a block, none where its step stops. -/
def nextState (s : State) : Option State :=
  match step s with
  | .next t => some t
  | .fault _ => none
  | .refused _ => none

/-- A step of block `k` looks at block `k`, and puts its next state in its place. -/
theorem stepBlock_eq (bs : Blocks) (k : Nat) : stepBlock bs k = (bs[k]?.bind nextState).map (bs.set k) := by
  unfold stepBlock nextState
  cases bs[k]? with
  | none => rfl
  | some s => dsimp only [Option.bind_some]; cases step s <;> rfl

/-- Two steps of different blocks: both next states come from the first list. -/
theorem stepBlock_bind_stepBlock (bs : Blocks) {j k : Nat} (h : j ≠ k) :
    ((stepBlock bs j).bind fun b => stepBlock b k)
      = (bs[j]?.bind nextState).bind fun s => (bs[k]?.bind nextState).map fun t => (bs.set j s).set k t := by
  simp only [stepBlock_eq]
  cases bs[j]?.bind nextState with
  | none => rfl
  | some s => simp only [Option.map_some, Option.bind_some, List.getElem?_set_ne h]

/-- Settles O52: the two next states do not depend on the order, nor does the list they are put into. -/
theorem blocksAreIndependent : Obligations.BlocksAreIndependent := by
  intro bs j k h
  rw [stepBlock_bind_stepBlock bs h, stepBlock_bind_stepBlock bs h.symm]
  cases bs[j]?.bind nextState with
  | none => cases bs[k]?.bind nextState <;> rfl
  | some s =>
    cases bs[k]?.bind nextState with
    | none => rfl
    | some t => exact congrArg some (List.set_comm s t h)

end Sys2Proof.Machine
end

section
/-! ### The assembler

What a line's first word, operand and quoted string are read as (30_encoding.md R68, R69). -/

namespace Sys2Proof.Machine

/-- A hexadecimal digit is read back. -/
theorem hexDigit_hexChar : ∀ n < 16, hexDigit (hexChar n) = some n := by decide

/-- The two digits of a byte are read back (30_encoding.md R68). -/
theorem readOperand_hexText (b : Byte) : readOperand (hexText b) = some (b, []) := by
  have hhigh := hexDigit_hexChar (b.toNat / 16) (by omega)
  have hlow := hexDigit_hexChar (b.toNat % 16) (by omega)
  have hbyte : 16 * (b.toNat / 16) + b.toNat % 16 = b.toNat := Nat.div_add_mod ..
  simp only [readOperand, hexText, hhigh, hlow, hbyte, BitVec.ofNat_toNat, BitVec.setWidth_eq]

/-- What follows the first word of a line that takes a printed operand. -/
theorem withOperand_hexText (command : Byte → Instr) (b : Byte) :
    withOperand command (' ' :: hexText b) = .ok [present (command b)] := by
  simp only [withOperand, readOperand_hexText]
  rfl

/-! The arm that each first word with an operand or a string selects, whatever follows the space: the comparisons of the
first word are evaluated. -/

theorem assembleLine_tread (rest : List Char) :
    assembleLine ("TREAD".toList ++ ' ' :: rest) = withOperand .tread (' ' :: rest) := rfl

theorem assembleLine_kupd (rest : List Char) :
    assembleLine ("KUPD".toList ++ ' ' :: rest) = withOperand .kupd (' ' :: rest) := rfl

theorem assembleLine_dec (rest : List Char) :
    assembleLine ("DEC".toList ++ ' ' :: rest) = withOperand .dec (' ' :: rest) := rfl

theorem assembleLine_enc (rest : List Char) :
    assembleLine ("ENC".toList ++ ' ' :: rest) = withOperand .enc (' ' :: rest) := rfl

theorem assembleLine_new (rest : List Char) :
    assembleLine ("NEW ".toList ++ rest) = withString .newCipher (' ' :: rest) := rfl

/-- Settles O59: the mnemonic selects the command's arm, and the two digits are read back. -/
theorem lineOfCommandAssembles : Obligations.LineOfCommandAssembles := by
  intro i
  cases i with
  | stat | tbuild | kinit | kstrm | kread0 | kread1 | kread2 => rfl
  | tread b => exact (assembleLine_tread _).trans (withOperand_hexText .tread b)
  | kupd b => exact (assembleLine_kupd _).trans (withOperand_hexText .kupd b)
  | dec b => exact (assembleLine_dec _).trans (withOperand_hexText .dec b)
  | enc b => exact (assembleLine_enc _).trans (withOperand_hexText .enc b)

/-- A quoted string is read up to its closing quote, and each of its characters as its code (30_encoding.md R69). -/
theorem readString_append_quote {cs : List Char} (h : ∀ c ∈ cs, 32 ≤ c.toNat ∧ c.toNat ≤ 126 ∧ c ≠ '"') :
    readString (cs ++ ['"']) = some (cs.map fun c => BitVec.ofNat 8 c.toNat, []) := by
  induction cs with
  | nil => rfl
  | cons c cs ih =>
    obtain ⟨⟨hlow, hhigh, hquote⟩, hcs⟩ := List.forall_mem_cons.1 h
    have hprint : printable c = true := by simp only [printable, hlow, hhigh, decide_true, Bool.and_self]
    rw [List.cons_append, readString, if_neg hquote, if_pos hprint, ih hcs]
    rfl

/-- A list of `KUPD`s as host actions. -/
theorem expandActions_newCipher (password : List Byte) :
    expandActions (.newCipher password) = present .kinit :: password.map fun b => present (.kupd b) := by
  simp only [expandActions, expand, List.map_cons, List.map_map, Function.comp_def]

/-- Settles O60: the string is read as its characters' codes, and `NEW` of them is `KINIT` and one `KUPD` for each. -/
theorem newLineExpandsToItsBytes : Obligations.NewLineExpandsToItsBytes := by
  intro cs h
  simp only [assembleLine_new, withString, readString_append_quote h, expandActions_newCipher, List.map_map]
  rfl

end Sys2Proof.Machine
end
